-- ==== Sys2Proof/Word.lean ====
section
/-! DEFINITION. The plain words of the block: bytes, packets of twelve bytes and frames of bits (00_scope.md R8,
30_encoding.md R73, R74). -/

namespace Sys2Proof

/-- A byte, an integer 0..255 (10_state.md R26). -/
abbrev Byte := BitVec 8

/-- A frame: a bit sequence, index 0 the oldest bit (30_encoding.md R73). Its length bound and sync word are an
invariant (10_state.md R24), kept in Safety.lean. -/
abbrev Frame := List Bool

/-- A packet `P[0..12)`: exactly twelve bytes; `bi` is `P[i]` (30_encoding.md R74). -/
structure Packet where
  b0 : Byte
  b1 : Byte
  b2 : Byte
  b3 : Byte
  b4 : Byte
  b5 : Byte
  b6 : Byte
  b7 : Byte
  b8 : Byte
  b9 : Byte
  b10 : Byte
  b11 : Byte
  deriving DecidableEq, Repr, Inhabited

/-- The eight known packet types (30_encoding.md R75). -/
inductive PacketType where
  | synchronization
  | message
  | uplink
  | downlink
  | networkControl
  | fill
  | ephemeris
  | elements
  deriving DecidableEq, Repr

end Sys2Proof
end

