-- ==== Sys2Proof/Syntax.lean ====
section
/-! DEFINITION. The block's operations, one constructor of `Instr` per row of spec/opcode_table.json (00_scope.md R2),
the forms in which the encoded ones arrive, and the agent and host steps a schedule names. -/

namespace Sys2Proof

/-- The operations of spec/opcode_table.json. A tag-selected operation carries the packet that selects it; `decEph`
carries trigger and follower (30_encoding.md R77); `cfgWrite` and `cfgRead` carry the configuration address
(20_memory.md R52). -/
inductive Instr where
  /-- `DEC_SYNC`, tag 0x65 (43_decoders_link.md R190). -/
  | decSync (p : Packet)
  /-- `DEC_MSG`, tag 0x1A (43_decoders_link.md R195). -/
  | decMsg (p : Packet)
  /-- `DEC_UPL`, tag 0x1B (43_decoders_link.md R201). -/
  | decUpl (p : Packet)
  /-- `DEC_DNL`, tag 0x1C (43_decoders_link.md R207). -/
  | decDnl (p : Packet)
  /-- `DISC_NC`, tag 0x1D (42_checksum_dispatch.md R167). -/
  | discNc (p : Packet)
  /-- `DISC_FILL`, tag 0x1E (42_checksum_dispatch.md R167). -/
  | discFill (p : Packet)
  /-- `DEC_EPH`, tag 0x1F, on `E = a ++ b` (44_decoders_orbit.md R240). -/
  | decEph (a b : Packet)
  /-- `DEC_ELE`, tag 0x22 (44_decoders_orbit.md R250). -/
  | decEle (p : Packet)
  /-- `DISC_UNK`, any tag not listed (42_checksum_dispatch.md R166). -/
  | discUnk (p : Packet)
  /-- `SYNC_MATCH`, the window's 24 oldest bits are the sync word (40_frame_sync.md R125). -/
  | syncMatch
  /-- `SYN_BIT` (40_frame_sync.md R124). -/
  | synBit
  /-- `PKZ_LOAD` (41_packetizer.md R145). -/
  | pkzLoad
  /-- `PKZ_EMIT` (41_packetizer.md R146). -/
  | pkzEmit
  /-- `DSP_POP` (42_checksum_dispatch.md R168). -/
  | dspPop
  /-- `DSP_EPH` (42_checksum_dispatch.md R171). -/
  | dspEph
  /-- `CFG_WRITE` of `v` at a configuration address (10_state.md R28, 20_memory.md R52). -/
  | cfgWrite (addr : Nat) (v : Byte)
  /-- `CFG_READ` at a configuration address (10_state.md R28, 20_memory.md R52). -/
  | cfgRead (addr : Nat)
  /-- `RESET` (70_reset_and_hazards.md R300). -/
  | reset
  /-- `SNK_TAKE` (20_memory.md R58). -/
  | snkTake
  deriving DecidableEq, Repr

/-- What an encoded operation is read from: the bytes at the head of the packet channel (format packet_tag8) or the
bits of the window (format window24). -/
inductive Words where
  | bytes (l : List Byte)
  | window (l : List Bool)
  deriving DecidableEq, Repr

/-- Why bytes or bits decode to no operation. -/
inductive DecodeError where
  /-- Fewer than twelve bytes: no packet (30_encoding.md R74). -/
  | shortPacket (n : Nat)
  /-- Tag 0x1F with no whole follower packet behind the trigger (30_encoding.md R77). -/
  | followerMissing
  /-- Bytes are left over after the operation. -/
  | trailingBytes (n : Nat)
  /-- Fewer than 24 window bits (40_frame_sync.md R131). -/
  | shortWindow (n : Nat)
  /-- The 24 oldest window bits are not the sync word (40_frame_sync.md R125). -/
  | noSyncWord
  deriving DecidableEq, Repr

/-- The agents of 10_state.md R20 that take steps of the model (`SRC` takes none). -/
inductive Agent where
  | syn
  | pkz
  | dsp
  | snk
  | cfgh
  | rsth
  deriving DecidableEq, Repr

/-- A step an agent or the host can be scheduled to take (10_state.md R20). -/
inductive Action where
  | synBit
  | pkzLoad
  | pkzEmit
  | dspPop
  | dspEph
  | cfgWrite (addr : Nat) (v : Byte)
  | cfgRead (addr : Nat)
  | reset
  | snkTake
  deriving DecidableEq, Repr, Inhabited

end Sys2Proof
end

