-- ==== Sys2Proof/Config.lean ====
section
/-! DEFINITION. The parameters the source leaves open (00_scope.md R7), which State carries and no step writes, and the
model's three free values, which have no body. -/

namespace Sys2Proof

/-- A bit field of the 24-byte ephemeris: bit offset and width (44_decoders_orbit.md R233). -/
structure BitField where
  off : Nat
  width : Nat
  deriving DecidableEq, Repr

/-- Six like things in the order of `EPH_LAYOUT`: x, y, z position then x, y, z velocity (44_decoders_orbit.md R233). -/
structure Six (α : Type) where
  x : α
  y : α
  z : α
  vx : α
  vy : α
  vz : α
  deriving DecidableEq, Repr

/-- The machine's parameters (00_scope.md R7). A depth `none` is the unbounded reference. -/
structure Params where
  frameDepth : Option Nat
  packetDepth : Option Nat
  recordDepth : Option Nat
  enableReset : Byte
  ephLayout : Six BitField
  ephTriggerPrecheck : Bool
  deriving DecidableEq, Repr

/-- The default `EPH_LAYOUT`: contiguous 20-bit fields from bit 16 (44_decoders_orbit.md R233). -/
def defaultEphLayout : Six BitField where
  x := ⟨16, 20⟩
  y := ⟨36, 20⟩
  z := ⟨56, 20⟩
  vx := ⟨76, 20⟩
  vy := ⟨96, 20⟩
  vz := ⟨116, 20⟩

/-- The parameters at the spec's defaults (00_scope.md R7). DESIGN CHOICE: the three depths are OPEN in the spec and
are `none` here; log 3. Unsafe where a statement would lean on them. -/
def defaultParams : Params where
  frameDepth := none
  packetDepth := none
  recordDepth := none
  enableReset := 0xFF#8
  ephLayout := defaultEphLayout
  ephTriggerPrecheck := false

/-- FREE VALUE. Which step is taken when the schedule names none: the order of steps is free (10_state.md R20).
DESIGN CHOICE, log 1; safe: nothing constrains it. -/
opaque Config.freeAction : Nat → Action

/-- FREE VALUE. The bit at a position of an unbounded input sequence, for each source that could be connected: the host
may offer any sequence (10_state.md R36, 60_exceptions.md R281). DESIGN CHOICE, log 4; safe: nothing constrains it. -/
opaque Config.sourceBit : Nat → Nat → Bool

/-- FREE VALUE. The bit of a byte sequence at an index past its end, which 20_memory.md R54 leaves without a value.
DESIGN CHOICE, log 10; safe: nothing constrains it. -/
opaque Config.bitBeyond : List Byte → Nat → Bool

end Sys2Proof
end

