-- ==== Sys2Proof/Decode.lean ====
section
/-! DEFINITION. Decoding: the tag map (30_encoding.md R75), the packet and ephemeris lengths (R77) and the sync word
(R72), each total and rejecting by name; then the encoder, from the same tables. -/

namespace Sys2Proof

/-- `SYNC_WORD`, first bit first (30_encoding.md R72). -/
def syncWord : List Bool :=
  [true, false, true, false, false, true, true, false,
   false, false, false, true, false, true, false, true,
   true, false, false, true, true, true, true, true]

/-- The type tag of a packet type (30_encoding.md R75). -/
def PacketType.tag : PacketType → Byte
  | .synchronization => 0x65#8
  | .message => 0x1A#8
  | .uplink => 0x1B#8
  | .downlink => 0x1C#8
  | .networkControl => 0x1D#8
  | .fill => 0x1E#8
  | .ephemeris => 0x1F#8
  | .elements => 0x22#8

/-- The packet type a tag byte names, matching all eight bits (30_encoding.md R75); `none` for the 248 others (R76). -/
def typeOfTag (t : Byte) : Option PacketType :=
  if t = PacketType.synchronization.tag then some .synchronization
  else if t = PacketType.message.tag then some .message
  else if t = PacketType.uplink.tag then some .uplink
  else if t = PacketType.downlink.tag then some .downlink
  else if t = PacketType.networkControl.tag then some .networkControl
  else if t = PacketType.fill.tag then some .fill
  else if t = PacketType.ephemeris.tag then some .ephemeris
  else if t = PacketType.elements.tag then some .elements
  else none

/-- The bytes of a packet in order. -/
def Packet.bytes (p : Packet) : List Byte :=
  [p.b0, p.b1, p.b2, p.b3, p.b4, p.b5, p.b6, p.b7, p.b8, p.b9, p.b10, p.b11]

/-- The first packet of a byte sequence and what follows it (30_encoding.md R74). -/
def takePacket : List Byte → Option (Packet × List Byte)
  | b0 :: b1 :: b2 :: b3 :: b4 :: b5 :: b6 :: b7 :: b8 :: b9 :: b10 :: b11 :: rest =>
    some (⟨b0, b1, b2, b3, b4, b5, b6, b7, b8, b9, b10, b11⟩, rest)
  | _ => none

/-- The operation at the head of a byte sequence, and the bytes after it. The tag of the first packet alone decides;
`DEC_EPH` takes a second packet, whose own first byte is not examined (30_encoding.md R75, R77). -/
def decodeBytes (l : List Byte) : Except DecodeError (Instr × List Byte) :=
  match takePacket l with
  | none => .error (.shortPacket l.length)
  | some (a, rest) =>
    match typeOfTag a.b0 with
    | some .synchronization => .ok (.decSync a, rest)
    | some .message => .ok (.decMsg a, rest)
    | some .uplink => .ok (.decUpl a, rest)
    | some .downlink => .ok (.decDnl a, rest)
    | some .networkControl => .ok (.discNc a, rest)
    | some .fill => .ok (.discFill a, rest)
    | some .ephemeris =>
      match takePacket rest with
      | some (b, rest') => .ok (.decEph a b, rest')
      | none => .error .followerMissing
    | some .elements => .ok (.decEle a, rest)
    | none => .ok (.discUnk a, rest)

/-- The operation the window's oldest bits stand for (40_frame_sync.md R125, R131). -/
def decodeWindow (w : List Bool) : Except DecodeError Instr :=
  if w.length < 24 then .error (.shortWindow w.length)
  else if w.take 24 = syncWord then .ok .syncMatch
  else .error .noSyncWord

/-- The operation that exactly these words stand for. -/
def decode : Words → Except DecodeError Instr
  | .bytes l =>
    match decodeBytes l with
    | .ok (i, []) => .ok i
    | .ok (_, b :: rest) => .error (.trailingBytes (b :: rest).length)
    | .error e => .error e
  | .window w => decodeWindow w

/-- The words of an operation (30_encoding.md R72, R75, R77); the agent and host steps have no binary encoding. -/
def encode : Instr → Option Words
  | .decSync p => some (.bytes p.bytes)
  | .decMsg p => some (.bytes p.bytes)
  | .decUpl p => some (.bytes p.bytes)
  | .decDnl p => some (.bytes p.bytes)
  | .discNc p => some (.bytes p.bytes)
  | .discFill p => some (.bytes p.bytes)
  | .decEph a b => some (.bytes (a.bytes ++ b.bytes))
  | .decEle p => some (.bytes p.bytes)
  | .discUnk p => some (.bytes p.bytes)
  | .syncMatch => some (.window syncWord)
  | .synBit => none
  | .pkzLoad => none
  | .pkzEmit => none
  | .dspPop => none
  | .dspEph => none
  | .cfgWrite _ _ => none
  | .cfgRead _ => none
  | .reset => none
  | .snkTake => none

/-- The `n` low bytes of `w`, least significant first. -/
def bytesOfNat : Nat → Nat → List Byte
  | 0, _ => []
  | n + 1, w => BitVec.ofNat 8 w :: bytesOfNat n (w / 256)

/-- The `n` low bits of `w`, most significant first: `W[0]` is the most significant bit of the table's window24 word. -/
def windowOfNat : Nat → Nat → List Bool
  | 0, _ => []
  | n + 1, w => w.testBit n :: windowOfNat n w

/-- What the decoder reads from a word numbered as spec/opcode_table.json numbers it: a row of 24 bits is the window24
row, every other row is a packet whose first byte is the low byte, zeros above (DEDUCED, log 16). -/
def decodeTableWord (nbits w : Nat) : Option Instr :=
  if nbits = 24 then
    match decodeWindow (windowOfNat 24 w) with
    | .ok i => some i
    | .error _ => none
  else
    match decodeBytes (bytesOfNat 24 w) with
    | .ok (i, _) => some i
    | .error _ => none

/-- The operation an agent or host step is (10_state.md R20). -/
def Action.toInstr : Action → Instr
  | .synBit => .synBit
  | .pkzLoad => .pkzLoad
  | .pkzEmit => .pkzEmit
  | .dspPop => .dspPop
  | .dspEph => .dspEph
  | .cfgWrite addr v => .cfgWrite addr v
  | .cfgRead addr => .cfgRead addr
  | .reset => .reset
  | .snkTake => .snkTake

/-- The agent whose step it is (10_state.md R20). -/
def Action.agent : Action → Agent
  | .synBit => .syn
  | .pkzLoad => .pkz
  | .pkzEmit => .pkz
  | .dspPop => .dsp
  | .dspEph => .dsp
  | .cfgWrite _ _ => .cfgh
  | .cfgRead _ => .cfgh
  | .reset => .rsth
  | .snkTake => .snk

end Sys2Proof
end

