-- ==== Sys2Proof/WellFormed.lean ====
section
/-! DEFINITION. When an `Instr` is an operation of the block: a tag-selected operation carries a packet with its own tag
(30_encoding.md R75, R76). The other operations have no operand that could be ill formed: a configuration access at
any address is an operation, refused where the address is not 0 (20_memory.md R52). -/

namespace Sys2Proof

/-- The packet's tag byte names this type. -/
def Packet.hasType (p : Packet) (t : PacketType) : Bool :=
  decide (typeOfTag p.b0 = some t)

/-- Well-formedness of an operation. -/
def Instr.wellFormed : Instr → Bool
  | .decSync p => p.hasType .synchronization
  | .decMsg p => p.hasType .message
  | .decUpl p => p.hasType .uplink
  | .decDnl p => p.hasType .downlink
  | .discNc p => p.hasType .networkControl
  | .discFill p => p.hasType .fill
  | .decEph a _ => a.hasType .ephemeris
  | .decEle p => p.hasType .elements
  | .discUnk p => decide (typeOfTag p.b0 = none)
  | .syncMatch => true
  | .synBit => true
  | .pkzLoad => true
  | .pkzEmit => true
  | .dspPop => true
  | .dspEph => true
  | .cfgWrite _ _ => true
  | .cfgRead _ => true
  | .reset => true
  | .snkTake => true

end Sys2Proof
end

