-- ==== Sys2Proof/Machine/State.lean ====
section
/-! DEFINITION. The state as plain data: every element of 10_state.md R23 to R31, the host's side of the ports
(R36, R28), the parameters (00_scope.md R7) and the schedule; and the state after reset (R35). -/

namespace Sys2Proof.Machine

/-- Three axes x, y, z (44_decoders_orbit.md R244, R245). -/
structure Axes (α : Type) where
  x : α
  y : α
  z : α
  deriving DecidableEq, Repr

/-- `SYNC_REC` (30_encoding.md R91). -/
structure SyncRec where
  scId : Nat
  minorFrame : Nat
  deriving DecidableEq, Repr

/-- `MSG_REC`; the payload is eight bytes (30_encoding.md R92). -/
structure MsgRec where
  fragIndex : Nat
  fragCount : Nat
  payload : List Byte
  deriving DecidableEq, Repr

/-- One kept channel of an Uplink or Downlink record; `freqHz` is in hertz (30_encoding.md R93, R94). -/
structure Chan where
  raw : Nat
  freqHz : Nat
  deriving DecidableEq, Repr

/-- `UPL_REC` (30_encoding.md R93). -/
structure UplRec where
  fragIndex : Nat
  fragCount : Nat
  chans : List Chan
  deriving DecidableEq, Repr

/-- `DNL_REC`; it has no fragment fields (30_encoding.md R94, 43_decoders_link.md R208). -/
structure DnlRec where
  chans : List Chan
  deriving DecidableEq, Repr

/-- `EPH_REC`: `pos`, `radius`, `height` in 2^-20 m, `vel`, `speed` in 2^-20 m/s, times in seconds and weeks
(30_encoding.md R95). -/
structure EphRec where
  scId : Nat
  gpsWeek : Nat
  gpsSeconds : Nat
  gpsTime : Nat
  raw : Six Nat
  pos : Axes Int
  vel : Axes Int
  radius : Nat
  height : Int
  speed : Nat
  deriving DecidableEq, Repr

/-- `ELE_REC`: `maNum` in degrees / 16777215, `mmNum` in revolutions per day / (10^8 · 4294967295)
(30_encoding.md R96). -/
structure EleRec where
  maRaw : Nat
  maNum : Nat
  mmRaw : Nat
  mmNum : Nat
  deriving DecidableEq, Repr

/-- A channel list as the output port carries it: its length, and a fixed number of slots (30_encoding.md R93, R94). -/
structure PortChans where
  n : Nat
  slots : List Chan
  deriving DecidableEq, Repr

/-- A decoded record, a tagged value (30_encoding.md R90). -/
inductive Record where
  | sync (r : SyncRec)
  | msg (r : MsgRec)
  | upl (r : UplRec)
  | dnl (r : DnlRec)
  | eph (r : EphRec)
  | ele (r : EleRec)
  deriving DecidableEq, Repr

/-- The body of a record on the output port: the fields of the record, channel lists in slots (30_encoding.md R91 to
R96). -/
inductive PortBody where
  | sync (r : SyncRec)
  | msg (r : MsgRec)
  | upl (fragIndex fragCount : Nat) (chans : PortChans)
  | dnl (chans : PortChans)
  | eph (r : EphRec)
  | ele (r : EleRec)
  deriving DecidableEq, Repr

/-- A record on the output port, `(rtype, body)` (30_encoding.md R90, 10_state.md R37). -/
structure PortRecord where
  rtype : Byte
  body : PortBody
  deriving DecidableEq, Repr

/-- A drop: its cause and the information recorded (60_exceptions.md R271). -/
inductive Drop where
  | checksumFailure (a : Packet) (b : Option Packet)
  | incompleteFrameData (bits bytes : Nat)
  | unknownOrDisabled (a : Packet)
  | reassemblyUnavailable (a : Packet)
  deriving DecidableEq, Repr

/-- An event of the observation trace (10_state.md R31). -/
inductive Event where
  | bit (b : Bool)
  | frame (f : Frame)
  | packet (p : Packet)
  | drop (d : Drop)
  | record (r : Record)
  | delivered (r : Record)
  deriving DecidableEq, Repr

/-- The dispatcher's state (10_state.md R29). -/
inductive Dsp where
  | idle
  | ephPending (a : Packet)
  deriving DecidableEq, Repr

/-- The state of the block, with the host's side of its ports and the schedule. -/
structure State where
  /-- The parameters (00_scope.md R7); no step writes them. -/
  params : Params
  /-- `IN`, the host-held input bits: all of a finite `IN`, the first bits of an unbounded one (10_state.md R36). -/
  inBits : List Bool
  /-- How `IN` goes on behind `inBits`: `none` if it ends there, `some k` if it is unbounded and goes on with the bits of
  source `k`, which are free values (10_state.md R36, 60_exceptions.md R281). DESIGN CHOICE, log 4. -/
  inSource : Option Nat
  /-- `in_pos` (10_state.md R36). -/
  inPos : Nat
  /-- `W`, the window, oldest bit first (10_state.md R23). -/
  w : List Bool
  /-- `FQ`, the frame channel, head first (10_state.md R24). -/
  fq : List Frame
  /-- `pz_rem`, the packets of the current frame still to push (10_state.md R25). -/
  pzRem : Option (List Packet)
  /-- `PQ`, the packet channel, head first (10_state.md R26). -/
  pq : List Packet
  /-- `dsp` (10_state.md R29). -/
  dsp : Dsp
  /-- `RQ`, the record channel, head first (10_state.md R30). -/
  rq : List Record
  /-- `CFG_ENABLE` (10_state.md R27). -/
  cfgEnable : Byte
  /-- `T`, the observation trace, oldest event first (10_state.md R31). -/
  trace : List Event
  /-- MODEL'S OWN. What the last `CFG_READ` returned to the host (10_state.md R28). DESIGN CHOICE, log 7. -/
  cfgData : Option Byte
  /-- MODEL'S OWN. The steps to take next, first first (10_state.md R20). DESIGN CHOICE, log 1. -/
  sched : List Action
  /-- MODEL'S OWN. How many steps the free choice has made. DESIGN CHOICE, log 1. -/
  tick : Nat
  deriving DecidableEq, Repr

/-- The block has no fault: no operation can fault and no failure stops a stage (60_exceptions.md R270, R272). The type
has no constructor, so nothing raises one; DEDUCED, log 15. -/
inductive Fault where
  deriving DecidableEq, Repr

/-- Why a step has no meaning. -/
inductive Refusal where
  /-- An instruction without a meaning; only an arm of Dispatch.lean could raise it, and none does. Safe. -/
  | notModelled (mnemonic : String)
  /-- A configuration access at an address other than 0, raised by `CFG_WRITE` and `CFG_READ`
  (60_exceptions.md R276, 20_memory.md R52). Safe. -/
  | cfgAddress (addr : Nat)
  /-- An input symbol other than 0 or 1, raised where symbols come as the reference's bytes (`offerSymbols`), never by an
  operation of the block (60_exceptions.md R276, 10_state.md R36). Safe. -/
  | inputSymbol (v : Byte)
  deriving DecidableEq, Repr

/-- The state right after reset (10_state.md R35). The parameters are at their defaults (log 3); the host's input, the
host's read data, the schedule and the free-choice counter are DESIGN CHOICES (logs 1, 4, 7). -/
def State.reset : State where
  params := defaultParams
  inBits := []
  inSource := none
  inPos := 0
  w := []
  fq := []
  pzRem := none
  pq := []
  dsp := .idle
  rq := []
  cfgEnable := defaultParams.enableReset
  trace := []
  cfgData := none
  sched := []
  tick := 0

end Sys2Proof.Machine
end

