-- ==== Sys2Proof/Machine/Operands.lean ====
section
/-! DEFINITION. Every operand form: slices and bit fields (00_scope.md R8, R9), little-endian values (R10), bit numbering
over bytes (20_memory.md R54), bits to bytes and packets (41_packetizer.md R141, R142), nibbles and triplets
(43_decoders_link.md), the integer square root and the scale words (44_decoders_orbit.md). All integers are exact. -/

namespace Sys2Proof.Machine

/-- `WINDOW_CAP`, the most bits the window holds (00_scope.md R6). -/
def windowCap : Nat := 4800

/-- `s[a..b)` (00_scope.md R8). -/
def slice {α : Type} (s : List α) (a b : Nat) : List α :=
  (s.drop a).take (b - a)

/-- `v[hi:lo]` (00_scope.md R9). -/
def bitSlice (v hi lo : Nat) : Nat :=
  (v >>> lo) % 2 ^ (hi - lo + 1)

/-- `hi4(x) = x[7:4]` (00_scope.md R9). -/
def hi4 (x : Byte) : Nat :=
  bitSlice x.toNat 7 4

/-- `lo4(x) = x[3:0]` (00_scope.md R9). -/
def lo4 (x : Byte) : Nat :=
  bitSlice x.toNat 3 0

/-- `le(b_0, …)`: the first listed byte is the least significant (00_scope.md R10). -/
def le : List Byte → Nat
  | [] => 0
  | b :: bs => b.toNat + 256 * le bs

/-- The value of a bit sequence, the first bit the least significant: `Σ bit_i · 2^i`. -/
def bitsVal : List Bool → Nat
  | [] => 0
  | b :: bs => b.toNat + 2 * bitsVal bs

/-- `bitat(B, n)` (20_memory.md R54). Past the end of `B` the rule gives no bit: a free value, log 10. -/
def bitAt (bs : List Byte) (n : Nat) : Bool :=
  match bs[n / 8]? with
  | some b => b.getLsbD (n % 8)
  | none => Config.bitBeyond bs n

/-- `field(B, o, w)`: bit 0 is the lowest-numbered stream bit (20_memory.md R54). -/
def field (bs : List Byte) (o w : Nat) : Nat :=
  bitsVal ((List.range w).map fun k => bitAt bs (o + k))

/-- `byte_at(f, j)` (41_packetizer.md R141). -/
def byteAt (f : List Bool) (j : Nat) : Byte :=
  BitVec.ofNat 8 (bitsVal (slice f (8 * j) (8 * j + 8)))

/-- `nbytes(f)` (41_packetizer.md R142). -/
def nbytes (f : List Bool) : Nat :=
  f.length / 8

/-- `npackets(f)` (41_packetizer.md R142). -/
def npackets (f : List Bool) : Nat :=
  nbytes f / 12

/-- Packet `k` of a bit sequence: bytes `12k .. 12k+11` (41_packetizer.md R142). -/
def packetAt (f : List Bool) (k : Nat) : Packet where
  b0 := byteAt f (12 * k)
  b1 := byteAt f (12 * k + 1)
  b2 := byteAt f (12 * k + 2)
  b3 := byteAt f (12 * k + 3)
  b4 := byteAt f (12 * k + 4)
  b5 := byteAt f (12 * k + 5)
  b6 := byteAt f (12 * k + 6)
  b7 := byteAt f (12 * k + 7)
  b8 := byteAt f (12 * k + 8)
  b9 := byteAt f (12 * k + 9)
  b10 := byteAt f (12 * k + 10)
  b11 := byteAt f (12 * k + 11)

/-- `packets(f)` (41_packetizer.md R142). -/
def packets (f : List Bool) : List Packet :=
  (List.range (npackets f)).map (packetAt f)

/-- `dropped_bits(f)` (41_packetizer.md R142). -/
def droppedBits (f : List Bool) : Nat :=
  f.length % 8

/-- `dropped_bytes(f)` (41_packetizer.md R142). -/
def droppedBytes (f : List Bool) : Nat :=
  nbytes f % 12

/-- The eight bits of a byte in stream order, least significant first (20_memory.md R53). -/
def byteBits (b : Byte) : List Bool :=
  (List.range 8).map fun i => b.getLsbD i

/-- The 96 bits of a packet in stream order (20_memory.md R53). -/
def packetBits (p : Packet) : List Bool :=
  p.bytes.flatMap byteBits

/-- `nibbles(bs)`, high nibble first (43_decoders_link.md, helper `nibbles`). -/
def nibbles (bs : List Byte) : List Nat :=
  bs.flatMap fun b => [hi4 b, lo4 b]

/-- `tri(n, k)`, first nibble most significant, for every whole triplet in order (43_decoders_link.md, helper `tri`). -/
def tris : List Nat → List Nat
  | a :: b :: c :: rest => (a * 256 + b * 16 + c) :: tris rest
  | _ => []

/-- One binary digit after another of the integer square root: `k` digits remain below `r`. -/
def isqrtDigits (n : Nat) : Nat → Nat → Nat
  | 0, r => r
  | k + 1, r => if (r + 2 ^ k) * (r + 2 ^ k) ≤ n then isqrtDigits n k (r + 2 ^ k) else isqrtDigits n k r

/-- `isqrt(n) = floor(sqrt(n))` (00_scope.md R9). -/
def isqrt (n : Nat) : Nat :=
  isqrtDigits n (n.log2 / 2 + 1) 0

/-- `gps_time(week, seconds)`, seconds since 1980-01-06T00:00:00 (44_decoders_orbit.md R230). -/
def gpsTime (week seconds : Nat) : Nat :=
  604800 * week + seconds

/-- The scale word `N(r, S) = S·(2r − 2^20)` (44_decoders_orbit.md R235). -/
def scaleWord (r : Nat) (scale : Int) : Int :=
  scale * (2 * (r : Int) - 2 ^ 20)

/-- `S_pos` (44_decoders_orbit.md R236). -/
def scalePos : Int := 8378155

/-- `S_vel` (44_decoders_orbit.md R236). -/
def scaleVel : Int := 7700

/-- The reference radius 6378.15 km in 2^-20 m (44_decoders_orbit.md R236, R246). -/
def refRadius : Int := 6378150 * 2 ^ 20

/-- `isqrt` of the sum of the squares of three axes (44_decoders_orbit.md R246, R247). -/
def axesNorm (v : Axes Int) : Nat :=
  isqrt (v.x * v.x + v.y * v.y + v.z * v.z).toNat

/-- The raw fields of a byte sequence under a layout (44_decoders_orbit.md R233). -/
def rawFields (layout : Six BitField) (e : List Byte) : Six Nat where
  x := field e layout.x.off layout.x.width
  y := field e layout.y.off layout.y.width
  z := field e layout.z.off layout.z.width
  vx := field e layout.vx.off layout.vx.width
  vy := field e layout.vy.off layout.vy.width
  vz := field e layout.vz.off layout.vz.width

/-- `rtype`, the tag of the packet type a record decodes (30_encoding.md R90). -/
def Record.rtype : Record → Byte
  | .sync _ => PacketType.synchronization.tag
  | .msg _ => PacketType.message.tag
  | .upl _ => PacketType.uplink.tag
  | .dnl _ => PacketType.downlink.tag
  | .eph _ => PacketType.ephemeris.tag
  | .ele _ => PacketType.elements.tag

/-- The channel slots of an output port that carries `n` slots: the list, then slots of zeros (30_encoding.md R93,
R94). -/
def portSlots (n : Nat) (chans : List Chan) : List Chan :=
  chans.take n ++ List.replicate (n - chans.length) ⟨0, 0⟩

/-- A channel list on an output port that carries `n` slots: its length and the slots (30_encoding.md R93, R94). -/
def portChans (n : Nat) (chans : List Chan) : PortChans where
  n := chans.length
  slots := portSlots n chans

/-- The body of a record on the output port: four slots for an Uplink record, five for a Downlink record
(30_encoding.md R91 to R96). -/
def Record.portBody : Record → PortBody
  | .sync r => .sync r
  | .msg r => .msg r
  | .upl r => .upl r.fragIndex r.fragCount (portChans 4 r.chans)
  | .dnl r => .dnl (portChans 5 r.chans)
  | .eph r => .eph r
  | .ele r => .ele r

/-- A record on the output port (30_encoding.md R90, 10_state.md R37). -/
def Record.port (r : Record) : PortRecord where
  rtype := r.rtype
  body := r.portBody

end Sys2Proof.Machine
end

