-- ==== Sys2Proof/Machine/Flags.lean ====
section
/-! DEFINITION. Every condition a step tests. The block holds no flags (10_state.md R32): each of these is computed and
used within one step. The window match (40_frame_sync.md R125), the Fletcher check (42_checksum_dispatch.md R160,
R161), the enable flags and the route (R165), full and empty channels (00_scope.md R11), which steps are enabled, and
the end of a run (60_exceptions.md R280). -/

namespace Sys2Proof.Machine

/-- `match(W)` (40_frame_sync.md R125, R131). -/
def windowMatches (w : List Bool) : Bool :=
  decide (24 ≤ w.length) && decide (slice w 0 24 = syncWord)

/-- One byte of the Fletcher sums `(sum1, sum2)` (42_checksum_dispatch.md R160). -/
def fletcherByte (sums : Nat × Nat) (b : Byte) : Nat × Nat :=
  ((sums.1 + b.toNat) % 256, (sums.2 + (sums.1 + b.toNat) % 256) % 256)

/-- The Fletcher sums after a byte sequence, from zero (42_checksum_dispatch.md R160). -/
def fletcherSums (bs : List Byte) : Nat × Nat :=
  bs.foldl fletcherByte (0, 0)

/-- `fletcher(B) = sum1 + sum2`, not reduced (42_checksum_dispatch.md R160). -/
def fletcher (bs : List Byte) : Nat :=
  (fletcherSums bs).1 + (fletcherSums bs).2

/-- `valid(B)` (42_checksum_dispatch.md R161). -/
def valid (bs : List Byte) : Bool :=
  decide (fletcher bs = 0)

/-- The bit of `CFG_ENABLE` that belongs to a packet type (10_state.md R27). -/
def enableBit : PacketType → Nat
  | .synchronization => 0
  | .message => 1
  | .uplink => 2
  | .downlink => 3
  | .networkControl => 4
  | .fill => 5
  | .ephemeris => 6
  | .elements => 7

/-- The enable flag of a packet type is 1 (10_state.md R27). -/
def typeEnabled (en : Byte) (t : PacketType) : Bool :=
  en.getLsbD (enableBit t)

/-- Where a packet goes (42_checksum_dispatch.md R165). -/
inductive Route where
  | single (t : PacketType)
  | eph
  | discard
  deriving DecidableEq, Repr

/-- `route(t, en)` (42_checksum_dispatch.md R165 to R167). -/
def route (t : Byte) (en : Byte) : Route :=
  match typeOfTag t with
  | some .synchronization => if typeEnabled en .synchronization then .single .synchronization else .discard
  | some .message => if typeEnabled en .message then .single .message else .discard
  | some .uplink => if typeEnabled en .uplink then .single .uplink else .discard
  | some .downlink => if typeEnabled en .downlink then .single .downlink else .discard
  | some .networkControl => .discard
  | some .fill => .discard
  | some .ephemeris => if typeEnabled en .ephemeris then .eph else .discard
  | some .elements => if typeEnabled en .elements then .single .elements else .discard
  | none => .discard

/-- `full(Q)` for a channel that holds `len` items (00_scope.md R11; a channel over its depth counts as full: DEDUCED,
log 21). -/
def fullAt (depth : Option Nat) (len : Nat) : Bool :=
  match depth with
  | some d => decide (d ≤ len)
  | none => false

/-- `full(FQ)`. -/
def State.fqFull (s : State) : Bool :=
  fullAt s.params.frameDepth s.fq.length

/-- `full(PQ)`. -/
def State.pqFull (s : State) : Bool :=
  fullAt s.params.packetDepth s.pq.length

/-- `full(RQ)`. -/
def State.rqFull (s : State) : Bool :=
  fullAt s.params.recordDepth s.rq.length

/-- `in_valid`: `in_pos < IN.len`, which an unbounded `IN` always meets (10_state.md R36). -/
def State.inValid (s : State) : Bool :=
  s.inSource.isSome || decide (s.inPos < s.inBits.length)

/-- `in_valid` with its bit: `IN[in_pos]` while `in_pos < IN.len` (10_state.md R36). -/
def State.inBit (s : State) : Option Bool :=
  match s.inBits[s.inPos]? with
  | some b => some b
  | none => s.inSource.map fun k => Config.sourceBit k s.inPos

/-- The record offered to the sink, while `RQ` is not empty (10_state.md R37). -/
def State.outRecord (s : State) : Option Record :=
  s.rq.head?

/-- The output port: what it carries of the record offered (10_state.md R37, 30_encoding.md R90 to R96). -/
def State.outPort (s : State) : Option PortRecord :=
  s.outRecord.map Record.port

/-- Whether the step is enabled (40_frame_sync.md R124, 41_packetizer.md R145, R146, 42_checksum_dispatch.md R168, R171,
20_memory.md R58; the host's other steps always, 60_exceptions.md R278). -/
def enabled (s : State) : Action → Bool
  | .synBit => s.inValid && !s.fqFull
  | .pkzLoad => decide (s.pzRem = none) && !s.fq.isEmpty
  | .pkzEmit =>
    match s.pzRem with
    | some (_ :: _) => !s.pqFull
    | _ => false
  | .dspPop => decide (s.dsp = .idle) && !s.pq.isEmpty && !s.rqFull
  | .dspEph =>
    match s.dsp with
    | .ephPending _ => !s.rqFull
    | .idle => false
  | .cfgWrite _ _ => true
  | .cfgRead _ => true
  | .reset => true
  | .snkTake => !s.rq.isEmpty

/-- A quiescent state: the end of a run (60_exceptions.md R280). `in_pos = IN.len` needs an `IN` that ends. -/
def quiescent (s : State) : Bool :=
  s.inSource.isNone && decide (s.inPos = s.inBits.length) && s.fq.isEmpty && s.pq.isEmpty && s.rq.isEmpty
    && decide (s.pzRem = none) && decide (s.dsp = .idle)

end Sys2Proof.Machine
end

