-- ==== Sys2Proof/Machine/Ops.lean ====
section
/-! DEFINITION. The named operations over the state: one setter per element, the channel pushes with their trace events
(00_scope.md R11, 10_state.md R31), and `State.raise`, the one operation for a failure: the block's only counterpart of
taking an exception (60_exceptions.md R270, R274, R275). -/

namespace Sys2Proof.Machine

/-- What an operation answers. -/
abbrev Result := Host.Outcome State Fault Refusal

/-- Replace `in_pos`. -/
def State.setInPos (s : State) (n : Nat) : State := { s with inPos := n }

/-- Replace the window. -/
def State.setW (s : State) (w : List Bool) : State := { s with w := w }

/-- Replace the frame channel. -/
def State.setFq (s : State) (q : List Frame) : State := { s with fq := q }

/-- Replace the packetizer's remainder. -/
def State.setPzRem (s : State) (r : Option (List Packet)) : State := { s with pzRem := r }

/-- Replace the packet channel. -/
def State.setPq (s : State) (q : List Packet) : State := { s with pq := q }

/-- Replace the dispatcher's state. -/
def State.setDsp (s : State) (d : Dsp) : State := { s with dsp := d }

/-- Replace the record channel. -/
def State.setRq (s : State) (q : List Record) : State := { s with rq := q }

/-- Replace `CFG_ENABLE`. -/
def State.setCfgEnable (s : State) (v : Byte) : State := { s with cfgEnable := v }

/-- Replace what the host last read from the configuration port. -/
def State.setCfgData (s : State) (v : Option Byte) : State := { s with cfgData := v }

/-- `T <- T ++ [e]` (10_state.md R31). -/
def State.log (s : State) (e : Event) : State := { s with trace := s.trace ++ [e] }

/-- `push(FQ, f); T <- T ++ [Frame(f)]` (40_frame_sync.md R124). The caller has tested that `FQ` is not full. -/
def State.pushFrame (s : State) (f : Frame) : State :=
  (s.setFq (s.fq ++ [f])).log (.frame f)

/-- `push(PQ, p); T <- T ++ [Packet(p)]` (41_packetizer.md R146). The caller has tested that `PQ` is not full. -/
def State.pushPacket (s : State) (p : Packet) : State :=
  (s.setPq (s.pq ++ [p])).log (.packet p)

/-- `emit(r); T <- T ++ [Record(r)]` (00_scope.md R11, 42_checksum_dispatch.md R168). The caller has tested that `RQ` is
not full. -/
def State.emit (s : State) (r : Record) : State :=
  (s.setRq (s.rq ++ [r])).log (.record r)

/-- `raise <Cause>(info)`: the drop event and nothing else; the agent goes on with its next step
(60_exceptions.md R270, R274, R275). -/
def State.raise (s : State) (d : Drop) : State :=
  s.log (.drop d)

/-- The code of a drop's cause (60_exceptions.md R271). -/
def Drop.code : Drop → Nat
  | .checksumFailure _ _ => 1
  | .incompleteFrameData _ _ => 2
  | .unknownOrDisabled _ => 3
  | .reassemblyUnavailable _ => 4

/-- A step that is not enabled waits: it changes nothing (20_memory.md R63). DEDUCED, log 2. -/
def waits (s : State) : Result := .next s

/-- The next step to take and the state it is taken in: the schedule's first, or the free choice where the schedule
names none (10_state.md R20). DESIGN CHOICE, log 1. -/
def State.nextAction (s : State) : Action × State :=
  match s.sched with
  | a :: rest => (a, { s with sched := rest })
  | [] => (Config.freeAction s.tick, { s with tick := s.tick + 1 })

/-- Handle a packet of a type with a single-packet decoder: routing first, then the checksum, then the record
(42_checksum_dispatch.md R168, R169, 60_exceptions.md R273). It waits while `RQ` is full, as every path of `DSP_POP`
does (R168). -/
def handleSingle (t : PacketType) (dec : Packet → Record) (p : Packet) (s : State) : Result :=
  if s.rqFull then waits s
  else if typeEnabled s.cfgEnable t then
    if fletcher p.bytes = 0 then .next (s.emit (dec p))
    else .next (s.raise (.checksumFailure p none))
  else .next (s.raise (.unknownOrDisabled p))

/-- Discard a packet without a decoder (42_checksum_dispatch.md R166, R167). It waits while `RQ` is full (R168). -/
def discardPacket (p : Packet) (s : State) : Result :=
  if s.rqFull then waits s
  else .next (s.raise (.unknownOrDisabled p))

end Sys2Proof.Machine
end

