-- ==== Sys2Proof/Machine/LinkDecoders.lean ====
section
/-! DEFINITION. The decoders of Synchronization, Message, Uplink and Downlink packets (43_decoders_link.md), each a pure
function of the packet, and the operations that handle a packet of each type. -/

namespace Sys2Proof.Machine

/-- `DEC_SYNC(P)` (43_decoders_link.md R190, 30_encoding.md R80). -/
def decSync (p : Packet) : Record :=
  .sync { scId := p.b3.toNat, minorFrame := hi4 p.b6 }

/-- `DEC_MSG(P)` (43_decoders_link.md R195, 30_encoding.md R81). -/
def decMsg (p : Packet) : Record :=
  .msg { fragIndex := lo4 p.b1 + 1, fragCount := hi4 p.b1, payload := (slice p.bytes 2 10).reverse }

/-- The Uplink candidates, two nibbles dropped (43_decoders_link.md R201). -/
def uplCands (p : Packet) : List Nat :=
  tris (slice (nibbles (slice p.bytes 3 10).reverse) 2 14)

/-- The Uplink keep rule and frequency (43_decoders_link.md R203, R204). -/
def uplChans (cands : List Nat) : List Chan :=
  (cands.filter fun v => decide (v ≠ 0)).map fun v => ⟨v, 148000000 + 2500 * v⟩

/-- `DEC_UPL(P)` (43_decoders_link.md R201, 30_encoding.md R82). -/
def decUpl (p : Packet) : Record :=
  .upl { fragIndex := lo4 p.b1 + 1, fragCount := hi4 p.b1, chans := uplChans (uplCands p) }

/-- The Downlink candidates, one nibble dropped (43_decoders_link.md R207). -/
def dnlCands (p : Packet) : List Nat :=
  tris (slice (nibbles (slice p.bytes 2 10).reverse) 1 16)

/-- The Downlink keep rule and frequency (43_decoders_link.md R209, R210). -/
def dnlChans (cands : List Nat) : List Chan :=
  (cands.filter fun v => decide (80 ≤ v ∧ v ≤ 320)).map fun v => ⟨v, 137000000 + 2500 * v⟩

/-- `DEC_DNL(P)` (43_decoders_link.md R207, 30_encoding.md R83). -/
def decDnl (p : Packet) : Record :=
  .dnl { chans := dnlChans (dnlCands p) }

/-- A popped packet with tag 0x65 (42_checksum_dispatch.md R168, 43_decoders_link.md R190). -/
def execDecSync (p : Packet) (s : State) : Result :=
  handleSingle .synchronization decSync p s

/-- A popped packet with tag 0x1A (42_checksum_dispatch.md R168, 43_decoders_link.md R195). -/
def execDecMsg (p : Packet) (s : State) : Result :=
  handleSingle .message decMsg p s

/-- A popped packet with tag 0x1B (42_checksum_dispatch.md R168, 43_decoders_link.md R201). -/
def execDecUpl (p : Packet) (s : State) : Result :=
  handleSingle .uplink decUpl p s

/-- A popped packet with tag 0x1C (42_checksum_dispatch.md R168, 43_decoders_link.md R207). -/
def execDecDnl (p : Packet) (s : State) : Result :=
  handleSingle .downlink decDnl p s

end Sys2Proof.Machine
end

