-- ==== Sys2Proof/Machine/OrbitDecoders.lean ====
section
/-! DEFINITION. The decoders of Ephemeris pairs and Elements packets (44_decoders_orbit.md), each a pure function of its
bytes, and the operations that handle them. -/

namespace Sys2Proof.Machine

/-- Three positions in 2^-20 m from the raw fields (44_decoders_orbit.md R244). -/
def ephPos (raw : Six Nat) : Axes Int where
  x := scaleWord raw.x scalePos
  y := scaleWord raw.y scalePos
  z := scaleWord raw.z scalePos

/-- Three velocities in 2^-20 m/s from the raw fields (44_decoders_orbit.md R245). -/
def ephVel (raw : Six Nat) : Axes Int where
  x := scaleWord raw.vx scaleVel
  y := scaleWord raw.vy scaleVel
  z := scaleWord raw.vz scaleVel

/-- `gps_week = le(E[20], E[21])` (44_decoders_orbit.md R242). -/
def ephWeek (e : List Byte) : Nat := le (slice e 20 22)

/-- `gps_seconds = le(E[17], E[18], E[19])` (44_decoders_orbit.md R242). -/
def ephSeconds (e : List Byte) : Nat := le (slice e 17 20)

/-- `DEC_EPH(E)` with `E = A ++ B`, under a layout (44_decoders_orbit.md R240). -/
def decEph (layout : Six BitField) (a b : Packet) : Record :=
  let e := a.bytes ++ b.bytes
  let raw := rawFields layout e
  .eph {
    scId := a.b1.toNat
    gpsWeek := ephWeek e
    gpsSeconds := ephSeconds e
    gpsTime := gpsTime (ephWeek e) (ephSeconds e)
    raw := raw
    pos := ephPos raw
    vel := ephVel raw
    radius := axesNorm (ephPos raw)
    height := (axesNorm (ephPos raw) : Int) - refRadius
    speed := axesNorm (ephVel raw) }

/-- `ma_raw` (44_decoders_orbit.md R250). -/
def eleMa (p : Packet) : Nat := le (slice p.bytes 3 6)

/-- `mm_raw` (44_decoders_orbit.md R250). -/
def eleMm (p : Packet) : Nat := le (slice p.bytes 6 10)

/-- `DEC_ELE(P)` (44_decoders_orbit.md R250 to R252). -/
def decEle (p : Packet) : Record :=
  .ele {
    maRaw := eleMa p
    maNum := 360 * eleMa p
    mmRaw := eleMm p
    mmNum := 1500000106 * eleMm p }

/-- A trigger and its follower, both taken from `PQ`: the checksum is that of the 24 bytes (42_checksum_dispatch.md R171,
44_decoders_orbit.md R240). The enable flag is not examined again (10_state.md R28; DEDUCED, log 17). It waits while
`RQ` is full (R171). -/
def execDecEph (a b : Packet) (s : State) : Result :=
  if s.rqFull then waits s
  else if fletcher (a.bytes ++ b.bytes) = 0 then .next (s.emit (decEph s.params.ephLayout a b))
  else .next (s.raise (.checksumFailure a (some b)))

/-- A popped packet with tag 0x22 (42_checksum_dispatch.md R168, 44_decoders_orbit.md R250). -/
def execDecEle (p : Packet) (s : State) : Result :=
  handleSingle .elements decEle p s

end Sys2Proof.Machine
end

