-- ==== Sys2Proof/Machine/Dispatcher.lean ====
section
/-! DEFINITION. The dispatcher: the discards, `DSP_POP` and `DSP_EPH` (42_checksum_dispatch.md). -/

namespace Sys2Proof.Machine

/-- A popped packet with tag 0x1D: known, without a decoder (42_checksum_dispatch.md R167). -/
def execDiscNc (p : Packet) (s : State) : Result :=
  discardPacket p s

/-- A popped packet with tag 0x1E: known, without a decoder (42_checksum_dispatch.md R167). -/
def execDiscFill (p : Packet) (s : State) : Result :=
  discardPacket p s

/-- A popped packet with any other tag (42_checksum_dispatch.md R166). -/
def execDiscUnk (p : Packet) (s : State) : Result :=
  discardPacket p s

/-- `DSP_POP` on an ephemeris trigger: hold it for the look-ahead, unless its type is disabled or the pre-check is asked
for and fails (42_checksum_dispatch.md R168, R170). -/
def holdTrigger (a : Packet) (s : State) : Result :=
  if typeEnabled s.cfgEnable .ephemeris then
    if s.params.ephTriggerPrecheck = true ∧ fletcher a.bytes ≠ 0 then
      .next (s.raise (.checksumFailure a none))
    else .next (s.setDsp (.ephPending a))
  else .next (s.raise (.unknownOrDisabled a))

/-- Hand a popped packet to the operation its tag selects (30_encoding.md R75). -/
def dispatchPacket (a : Packet) (s : State) : Result :=
  match typeOfTag a.b0 with
  | some .synchronization => execDecSync a s
  | some .message => execDecMsg a s
  | some .uplink => execDecUpl a s
  | some .downlink => execDecDnl a s
  | some .networkControl => execDiscNc a s
  | some .fill => execDiscFill a s
  | some .ephemeris => holdTrigger a s
  | some .elements => execDecEle a s
  | none => execDiscUnk a s

/-- `DSP_POP` (42_checksum_dispatch.md R168). -/
def execDspPop (s : State) : Result :=
  match s.dsp, s.pq with
  | .idle, a :: rest => if s.rqFull then waits s else dispatchPacket a (s.setPq rest)
  | _, _ => waits s

/-- `DSP_EPH`: the look-ahead pop may find `PQ` empty; the follower's tag is not examined (42_checksum_dispatch.md R171,
R172). -/
def execDspEph (s : State) : Result :=
  match s.dsp with
  | .idle => waits s
  | .ephPending a =>
    if s.rqFull then waits s
    else
      match s.pq with
      | [] => .next ((s.setDsp .idle).raise (.reassemblyUnavailable a))
      | b :: rest => execDecEph a b ((s.setDsp .idle).setPq rest)

end Sys2Proof.Machine
end

