-- ==== Sys2Proof/Machine/FrameSync.lean ====
section
/-! DEFINITION. The frame synchronizer: `SYN_BIT` and `SYNC_MATCH` (40_frame_sync.md). -/

namespace Sys2Proof.Machine

/-- Steps 1 and 2 of `SYN_BIT` on the window: evict the oldest bit at capacity `WINDOW_CAP`, then append the new bit
(40_frame_sync.md R124, 10_state.md R23). -/
def slideWindow (w : List Bool) (b : Bool) : List Bool :=
  (if w.length = windowCap then w.drop 1 else w) ++ [b]

/-- `SYN_BIT` before its match: the bit is taken from the port, recorded, and slid into the window
(40_frame_sync.md R124). -/
def acceptBit (b : Bool) (s : State) : State :=
  ((s.setInPos (s.inPos + 1)).log (.bit b)).setW (slideWindow s.w b)

/-- `SYNC_MATCH`, step 3 of `SYN_BIT`: if the window's 24 oldest bits are the sync word, push a copy of the whole window
as a frame (40_frame_sync.md R124, R125, R127). A push waits while `FQ` is full (20_memory.md R63). DESIGN CHOICE, log 9. -/
def execSyncMatch (s : State) : Result :=
  if s.fqFull then waits s
  else if windowMatches s.w then .next (s.pushFrame s.w)
  else .next s

/-- `SYN_BIT` (40_frame_sync.md R124). -/
def execSynBit (s : State) : Result :=
  match s.inBit with
  | none => waits s
  | some b => if s.fqFull then waits s else execSyncMatch (acceptBit b s)

end Sys2Proof.Machine
end

