-- ==== Sys2Proof/Machine/HostPorts.lean ====
section
/-! DEFINITION. The host's steps: `CFG_WRITE`, `CFG_READ` (10_state.md R28), `RESET` (70_reset_and_hazards.md R300) and
`SNK_TAKE` (20_memory.md R58). -/

namespace Sys2Proof.Machine

/-- `CFG_WRITE`; an address other than 0 is refused (10_state.md R28, 20_memory.md R52, 60_exceptions.md R276; log 6). -/
def execCfgWrite (addr : Nat) (v : Byte) (s : State) : Result :=
  if addr = 0 then .next (s.setCfgEnable v) else .refused (.cfgAddress addr)

/-- `CFG_READ`; the host receives the value in `cfgData`, nothing of the block changes (10_state.md R28; logs 6, 7). -/
def execCfgRead (addr : Nat) (s : State) : Result :=
  if addr = 0 then .next (s.setCfgData (some s.cfgEnable)) else .refused (.cfgAddress addr)

/-- `RESET`: every piece of the block's state at its reset value; items in flight are lost without drop events and the
host's position is not moved (70_reset_and_hazards.md R300, 10_state.md R35). The parameters, the host's side and the
schedule stay (log 18). -/
def execReset (s : State) : Result :=
  .next { s with
    w := State.reset.w
    fq := State.reset.fq
    pzRem := State.reset.pzRem
    pq := State.reset.pq
    dsp := State.reset.dsp
    rq := State.reset.rq
    cfgEnable := s.params.enableReset
    trace := State.reset.trace }

/-- `SNK_TAKE` (20_memory.md R58). -/
def execSnkTake (s : State) : Result :=
  match s.rq with
  | r :: rest => .next ((s.setRq rest).log (.delivered r))
  | [] => waits s

end Sys2Proof.Machine
end

