-- ==== Sys2Proof/Machine/Packetizer.lean ====
section
/-! DEFINITION. The packetizer: `PKZ_LOAD` and `PKZ_EMIT` (41_packetizer.md). -/

namespace Sys2Proof.Machine

/-- A list of packets still to push, as `pz_rem` holds it: `none` when there is none left (41_packetizer.md R145, R146). -/
def remOf : List Packet → Option (List Packet)
  | [] => none
  | p :: ps => some (p :: ps)

/-- The drop event of a frame whose length is not a multiple of 96; not an abort (41_packetizer.md R145). -/
def noteIncomplete (f : Frame) (s : State) : State :=
  if droppedBits f ≠ 0 ∨ droppedBytes f ≠ 0 then
    s.raise (.incompleteFrameData (droppedBits f) (droppedBytes f))
  else s

/-- `PKZ_LOAD` (41_packetizer.md R145). -/
def execPkzLoad (s : State) : Result :=
  match s.pzRem, s.fq with
  | none, f :: rest => .next ((noteIncomplete f (s.setFq rest)).setPzRem (remOf (packets f)))
  | _, _ => waits s

/-- `PKZ_EMIT` (41_packetizer.md R146). -/
def execPkzEmit (s : State) : Result :=
  match s.pzRem with
  | some (p :: rest) =>
    if s.pqFull then waits s
    else .next ((s.pushPacket p).setPzRem (remOf rest))
  | _ => waits s

end Sys2Proof.Machine
end

