-- ==== Sys2Proof/Machine/Dispatch.lean ====
section
/-! DEFINITION. One arm per operation of spec/opcode_table.json. -/

namespace Sys2Proof.Machine

def exec (i : Instr) (s : State) : Host.Outcome State Fault Refusal :=
  match i with
  | .decSync p => Sys2Proof.Machine.execDecSync p s
  | .decMsg p => Sys2Proof.Machine.execDecMsg p s
  | .decUpl p => Sys2Proof.Machine.execDecUpl p s
  | .decDnl p => Sys2Proof.Machine.execDecDnl p s
  | .discNc p => Sys2Proof.Machine.execDiscNc p s
  | .discFill p => Sys2Proof.Machine.execDiscFill p s
  | .decEph a b => Sys2Proof.Machine.execDecEph a b s
  | .decEle p => Sys2Proof.Machine.execDecEle p s
  | .discUnk p => Sys2Proof.Machine.execDiscUnk p s
  | .syncMatch => Sys2Proof.Machine.execSyncMatch s
  | .synBit => Sys2Proof.Machine.execSynBit s
  | .pkzLoad => Sys2Proof.Machine.execPkzLoad s
  | .pkzEmit => Sys2Proof.Machine.execPkzEmit s
  | .dspPop => Sys2Proof.Machine.execDspPop s
  | .dspEph => Sys2Proof.Machine.execDspEph s
  | .cfgWrite addr v => Sys2Proof.Machine.execCfgWrite addr v s
  | .cfgRead addr => Sys2Proof.Machine.execCfgRead addr s
  | .reset => Sys2Proof.Machine.execReset s
  | .snkTake => Sys2Proof.Machine.execSnkTake s

end Sys2Proof.Machine
end

