-- ==== Sys2Proof/Machine/Fetch.lean ====
section
/-! DEFINITION. Placing an encoded operation where the machine takes it from next: a packet at the head of `PQ`, a
trigger with its follower behind it, or the sync word in the window with its last bit on the input port (log 5). -/

namespace Sys2Proof.Machine

/-- The next step of the schedule is `a`. -/
def State.scheduleFirst (s : State) (a : Action) : State :=
  { s with sched := a :: s.sched }

/-- Empty the record channel if it is full, so that the dispatcher does not wait. -/
def State.roomInRq (s : State) : State :=
  if s.rqFull then s.setRq [] else s

/-- Empty the frame channel if it is full, so that the synchronizer does not wait. -/
def State.roomInFq (s : State) : State :=
  if s.fqFull then s.setFq [] else s

/-- A packet at the head of `PQ` and `DSP_POP` next. -/
def State.placePacket (s : State) (p : Packet) : State :=
  (((s.roomInRq).setDsp .idle).setPq (p :: s.pq)).scheduleFirst .dspPop

/-- A trigger held, its follower at the head of `PQ`, and `DSP_EPH` next. -/
def State.placePair (s : State) (a b : Packet) : State :=
  (((s.roomInRq).setDsp (.ephPending a)).setPq (b :: s.pq)).scheduleFirst .dspEph

/-- All bits but the last in the window, the last offered on the input port, and `SYN_BIT` next. -/
def State.placeWindow (s : State) (bits : List Bool) : State :=
  ({ (s.roomInFq).setW bits.dropLast with
      inBits := s.inBits.take s.inPos ++ bits.drop (bits.length - 1) ++ s.inBits.drop s.inPos
      inPos := min s.inPos s.inBits.length }).scheduleFirst .synBit

/-- Place a table word (numbered as in `decodeTableWord`) so that the very next step runs it. -/
def State.placeTableWord (s : State) (nbits w : Nat) : State :=
  if nbits = 24 then s.placeWindow (windowOfNat 24 w)
  else
    match takePacket (bytesOfNat 24 w) with
    | none => s
    | some (a, rest) =>
      match typeOfTag a.b0, takePacket rest with
      | some .ephemeris, some (b, _) => s.placePair a b
      | _, _ => s.placePacket a

end Sys2Proof.Machine
end

