-- ==== Sys2Proof/Machine/Step.lean ====
section
/-! DEFINITION. One step of the machine: one atomic transition of one agent (00_scope.md R12, 10_state.md R20). -/

namespace Sys2Proof.Machine

/-- Take the next scheduled step, or a freely chosen one where the schedule names none (10_state.md R20; log 1). -/
def step (s : State) : Host.Outcome State Fault Refusal :=
  exec s.nextAction.1.toInstr s.nextAction.2

/-- The state in which the very next step takes and runs the operation of a table word (log 5). -/
def State.withFetchWord (s : State) (nbits w : Nat) : State :=
  s.placeTableWord nbits w

end Sys2Proof.Machine
end

