-- ==== Sys2Proof/Machine/Stimulus.lean ====
section
/-! DEFINITION. The stimulus scripts of 30_encoding.md R98: what each directive offers on the input port or asks of the
host's steps, the check bytes of R74, and `DRAIN`; and the one-byte-per-bit symbols of
60_exceptions.md R276. A script is one admissible order of host operations, no part of the
hardware (92_eei_decisions.md D23); log 19. -/

namespace Sys2Proof.Machine

/-- One directive of a stimulus script (30_encoding.md R98). -/
inductive Directive where
  | bits (l : List Bool)
  | bytes (l : List Byte)
  | sync
  | packet (body : List Byte)
  | rep (n : Nat) (b : Bool)
  | cfg (v : Byte)
  | reset
  | drain
  deriving DecidableEq, Repr

/-- The two check bytes that make a byte sequence valid (30_encoding.md R74). -/
def checkBytes (bs : List Byte) : List Byte :=
  [BitVec.ofNat 8 ((512 - ((fletcherSums bs).1 + (fletcherSums bs).2)) % 256),
   BitVec.ofNat 8 ((fletcherSums bs).2 % 256)]

/-- The bits a directive offers on the input port (30_encoding.md R98). -/
def Directive.offered : Directive → List Bool
  | .bits l => l
  | .bytes l => l.flatMap byteBits
  | .sync => syncWord
  | .packet body => (body ++ checkBytes body).flatMap byteBits
  | .rep n b => List.replicate n b
  | .cfg _ => []
  | .reset => []
  | .drain => []

/-- `SRC` offers bits: they stand at the end of `IN` (10_state.md R36). An unbounded `IN` has no end and offers its own
bits, so it stays as it is: DESIGN CHOICE, log 4. -/
def State.offer (s : State) (bits : List Bool) : State :=
  { s with inBits := if s.inSource.isNone then s.inBits ++ bits else s.inBits }

/-- The bits of the reference's one-byte-per-bit symbols, or the first byte that is no symbol (10_state.md R36,
30_encoding.md R70). -/
def bitsOfSymbols : List Byte → Except Byte (List Bool)
  | [] => .ok []
  | v :: vs =>
    if v = 0#8 ∨ v = 1#8 then
      match bitsOfSymbols vs with
      | .ok l => .ok (decide (v = 1#8) :: l)
      | .error e => .error e
    else .error v

/-- Offer the reference's one-byte-per-bit symbols; a byte other than 0 or 1 is refused (60_exceptions.md R276). The
adapter is no part of the block (00_scope.md R5); log 14. -/
def offerSymbols (vs : List Byte) (s : State) : Result :=
  match bitsOfSymbols vs with
  | .ok l => .next (s.offer l)
  | .error v => .refused (.inputSymbol v)

/-- The steps of the block's agents and the sink, the sink first and the input last. -/
def drainOrder : List Action :=
  [.snkTake, .pkzEmit, .pkzLoad, .dspEph, .dspPop, .synBit]

/-- Take the first enabled step of the block's agents and the sink, if there is one. -/
def drainStep (s : State) : State :=
  match drainOrder.find? (enabled s) with
  | none => s
  | some a =>
    match exec a.toInstr s with
    | .next t => t
    | .fault _ => s
    | .refused _ => s

/-- `n` drain steps. -/
def drainFor : Nat → State → State
  | 0, s => s
  | n + 1, s => drainFor n (drainStep s)

/-- How many steps a frame of this length still costs at most: its load, and four for each packet. -/
def frameWork (f : Frame) : Nat :=
  1 + 4 * npackets f

/-- What a held trigger still costs. -/
def dspWork : Dsp → Nat
  | .idle => 0
  | .ephPending _ => 2

/-- A bound on the steps of the block's agents and the sink from a state with at most 4800 window bits: every such step
lowers it. -/
def State.work (s : State) : Nat :=
  202 * (s.inBits.length - s.inPos) + (s.fq.map frameWork).sum + 4 * (s.pzRem.getD []).length
    + 3 * s.pq.length + dspWork s.dsp + s.rq.length

/-- `DRAIN`: run the block's agents and the sink until nothing is left to do (30_encoding.md R98, 60_exceptions.md R280).
On an unbounded input, where the spec's `DRAIN` would not end, it stops after `s.work` steps. The order of the steps and
that stop: DESIGN CHOICE, log 19. -/
def State.drain (s : State) : State :=
  drainFor s.work s

/-- Carry out one directive (30_encoding.md R98). -/
def runDirective (d : Directive) (s : State) : Result :=
  match d with
  | .cfg v => exec (.cfgWrite 0 v) s
  | .reset => exec .reset s
  | .drain => .next s.drain
  | .bits l => .next (s.offer (Directive.bits l).offered)
  | .bytes l => .next (s.offer (Directive.bytes l).offered)
  | .sync => .next (s.offer Directive.sync.offered)
  | .packet body => .next (s.offer (Directive.packet body).offered)
  | .rep n b => .next (s.offer (Directive.rep n b).offered)

/-- Take steps one after another; one that is not enabled waits. -/
def runActions : List Action → State → Result
  | [], s => .next s
  | a :: rest, s =>
    match exec a.toInstr s with
    | .next t => runActions rest t
    | .fault f => .fault f
    | .refused r => .refused r

/-- Carry out a script in which the listed agent steps come before each directive: the agents may interleave with a script
in any order the step rules allow (30_encoding.md R98). -/
def runInterleaved : List (List Action × Directive) → State → Result
  | [], s => .next s
  | (steps, d) :: rest, s =>
    match runActions steps s with
    | .next t =>
      match runDirective d t with
      | .next u => runInterleaved rest u
      | .fault f => .fault f
      | .refused r => .refused r
    | .fault f => .fault f
    | .refused r => .refused r

/-- Carry out a script, one directive after another, with no agent step between directives, so that the agents move only
inside `DRAIN`: one of the orders 30_encoding.md R98 allows, the others are those of `runInterleaved`. DESIGN CHOICE,
log 19. -/
def runScript (ds : List Directive) (s : State) : Result :=
  runInterleaved (ds.map fun d => ([], d)) s

end Sys2Proof.Machine
end

