-- ==== Sys2Proof/Safety.lean ====
section
/-! DEFINITION. What claims speak of: the data-model invariant (10_state.md R39), what the observation trace says was
accepted, pushed, dropped and delivered (R31), the reference reading of a bit stream (40_frame_sync.md R124 to R130),
and the conservation of items (20_memory.md R57, R64, 60_exceptions.md R283). -/

namespace Sys2Proof.Machine

/-- A frame: 24 to 4800 bits that begin with the sync word (10_state.md R24). -/
def frameWf (f : Frame) : Prop :=
  24 ≤ f.length ∧ f.length ≤ windowCap ∧ f.take 24 = syncWord

/-- An Uplink channel: a kept value and its frequency (30_encoding.md R93, 43_decoders_link.md R203, R204). -/
def uplChanWf (c : Chan) : Prop :=
  1 ≤ c.raw ∧ c.raw ≤ 4095 ∧ c.freqHz = 148000000 + 2500 * c.raw

/-- A Downlink channel: a kept value and its frequency (30_encoding.md R94, 43_decoders_link.md R209, R210). -/
def dnlChanWf (c : Chan) : Prop :=
  80 ≤ c.raw ∧ c.raw ≤ 320 ∧ c.freqHz = 137000000 + 2500 * c.raw

/-- Raw fields fit the widths of a layout (30_encoding.md R95). -/
def rawWf (layout : Six BitField) (r : Six Nat) : Prop :=
  r.x < 2 ^ layout.x.width ∧ r.y < 2 ^ layout.y.width ∧ r.z < 2 ^ layout.z.width ∧
  r.vx < 2 ^ layout.vx.width ∧ r.vy < 2 ^ layout.vy.width ∧ r.vz < 2 ^ layout.vz.width

/-- A complete record of its type: every field in its range and every derived field at its value
(30_encoding.md R91 to R96). -/
def recordWf (layout : Six BitField) : Record → Prop
  | .sync r => r.scId < 256 ∧ r.minorFrame < 16
  | .msg r => 1 ≤ r.fragIndex ∧ r.fragIndex ≤ 16 ∧ r.fragCount < 16 ∧ r.payload.length = 8
  | .upl r =>
    1 ≤ r.fragIndex ∧ r.fragIndex ≤ 16 ∧ r.fragCount < 16 ∧ r.chans.length ≤ 4 ∧ ∀ c ∈ r.chans, uplChanWf c
  | .dnl r => r.chans.length ≤ 5 ∧ ∀ c ∈ r.chans, dnlChanWf c
  | .eph r =>
    r.scId < 256 ∧ r.gpsWeek < 2 ^ 16 ∧ r.gpsSeconds < 2 ^ 24 ∧
    r.gpsTime = 604800 * r.gpsWeek + r.gpsSeconds ∧ rawWf layout r.raw ∧
    r.pos = ephPos r.raw ∧ r.vel = ephVel r.raw ∧ r.radius = axesNorm r.pos ∧
    r.height = (r.radius : Int) - refRadius ∧ r.speed = axesNorm r.vel
  | .ele r =>
    r.maRaw < 2 ^ 24 ∧ r.maNum = 360 * r.maRaw ∧ r.mmRaw < 2 ^ 32 ∧ r.mmNum = 1500000106 * r.mmRaw

/-- A channel holds no more than its depth (10_state.md R39). -/
def bounded (depth : Option Nat) (len : Nat) : Prop :=
  ∀ d, depth = some d → len ≤ d

/-- The data-model invariant (10_state.md R39). -/
structure State.Inv (s : State) : Prop where
  window : s.w.length ≤ windowCap
  frames : ∀ f ∈ s.fq, frameWf f
  rest : s.pzRem ≠ some []
  held : ∀ a, s.dsp = .ephPending a → typeOfTag a.b0 = some .ephemeris
  records : ∀ r ∈ s.rq, recordWf s.params.ephLayout r
  fqBound : bounded s.params.frameDepth s.fq.length
  pqBound : bounded s.params.packetDepth s.pq.length
  rqBound : bounded s.params.recordDepth s.rq.length
  input : s.inSource = none → s.inPos ≤ s.inBits.length

/-- The depths are legal parameters: each at least 1 (00_scope.md R7). -/
def State.depthsLegal (s : State) : Prop :=
  s.params.frameDepth ≠ some 0 ∧ s.params.packetDepth ≠ some 0 ∧ s.params.recordDepth ≠ some 0

/-- What a `bit` event carries. -/
def Event.asBit : Event → Option Bool
  | .bit x => some x
  | _ => none

/-- The bits accepted since reset, in order (10_state.md R31). -/
def bitsOf (t : List Event) : List Bool :=
  t.filterMap Event.asBit

/-- What a `frame` event carries. -/
def Event.asFrame : Event → Option Frame
  | .frame x => some x
  | _ => none

/-- The frames pushed since reset, in order. -/
def framesOf (t : List Event) : List Frame :=
  t.filterMap Event.asFrame

/-- What a `packet` event carries. -/
def Event.asPacket : Event → Option Packet
  | .packet x => some x
  | _ => none

/-- The packets pushed since reset, in order. -/
def packetsOf (t : List Event) : List Packet :=
  t.filterMap Event.asPacket

/-- What a `record` event carries. -/
def Event.asRecord : Event → Option Record
  | .record x => some x
  | _ => none

/-- The records pushed since reset, in order. -/
def recordsOf (t : List Event) : List Record :=
  t.filterMap Event.asRecord

/-- What a `delivered` event carries. -/
def Event.asDelivered : Event → Option Record
  | .delivered x => some x
  | _ => none

/-- The records the sink took since reset, in order. -/
def deliveredOf (t : List Event) : List Record :=
  t.filterMap Event.asDelivered

/-- The last 4800 bits of a stream, or all of a shorter one (40_frame_sync.md R126, R130). -/
def windowAfter (bits : List Bool) : List Bool :=
  bits.drop (bits.length - windowCap)

/-- The window after the first `n + 1` bits, if it matches. -/
def frameAt (bits : List Bool) (n : Nat) : Option Frame :=
  if windowMatches (windowAfter (bits.take (n + 1))) then some (windowAfter (bits.take (n + 1))) else none

/-- The frames of a bit stream, one for each bit after which the last 4800 bits begin with the sync word: the reference
the synchronizer is held to (40_frame_sync.md R126 to R130). -/
def framesOfBits (bits : List Bool) : List Frame :=
  (List.range bits.length).filterMap (frameAt bits)

/-- The window is what the accepted bits make it, and the frames pushed are those of the accepted bits, whatever the
depths and the schedule (40_frame_sync.md R126 to R130, 20_memory.md R63). -/
def State.FollowsBits (s : State) : Prop :=
  s.w = windowAfter (bitsOf s.trace) ∧ framesOf s.trace = framesOfBits (bitsOf s.trace)

/-- Packets pushed, then those of the frame in hand, then those of the frames waiting, are the packets of the frames
pushed, in order (20_memory.md R57, 41_packetizer.md R147). -/
def State.FollowsFrames (s : State) : Prop :=
  packetsOf s.trace ++ s.pzRem.getD [] ++ s.fq.flatMap packets = (framesOf s.trace).flatMap packets

/-- Records delivered, then those waiting, are the records pushed, in order (20_memory.md R57, R58). -/
def State.FollowsRecords (s : State) : Prop :=
  deliveredOf s.trace ++ s.rq = recordsOf s.trace

/-- The packets the dispatcher holds: the trigger, if there is one. -/
def Dsp.held : Dsp → List Packet
  | .idle => []
  | .ephPending a => [a]

/-- The record of a packet type with a single-packet decoder (42_checksum_dispatch.md R169). -/
def singleRecord (t : PacketType) (p : Packet) : Option Record :=
  match t with
  | .synchronization => some (decSync p)
  | .message => some (decMsg p)
  | .uplink => some (decUpl p)
  | .downlink => some (decDnl p)
  | .networkControl => none
  | .fill => none
  | .ephemeris => none
  | .elements => some (decEle p)

/-- A record is the decoding of exactly these packets: of one that passes its checksum, or of a trigger and its follower
that together pass theirs (42_checksum_dispatch.md R169, R171). -/
def decodesTo (layout : Six BitField) (ps : List Packet) (r : Record) : Prop :=
  (∃ t p, ps = [p] ∧ typeOfTag p.b0 = some t ∧ fletcher p.bytes = 0 ∧ singleRecord t p = some r) ∨
  (∃ a b, ps = [a, b] ∧ typeOfTag a.b0 = some .ephemeris ∧ fletcher (a.bytes ++ b.bytes) = 0 ∧
    r = decEph layout a b)

/-- The packets a drop names (60_exceptions.md R271, R283). -/
def Drop.packets : Drop → List Packet
  | .checksumFailure a none => [a]
  | .checksumFailure a (some b) => [a, b]
  | .incompleteFrameData _ _ => []
  | .unknownOrDisabled a => [a]
  | .reassemblyUnavailable a => [a]

/-- The packets an event accounts for: a record those it is the decoding of, a drop those it names, every other event
none (60_exceptions.md R283). -/
def Event.accountsFor (layout : Six BitField) (e : Event) (ps : List Packet) : Prop :=
  match e with
  | .record r => decodesTo layout ps r
  | .drop d => ps = d.packets
  | .bit _ => ps = []
  | .frame _ => ps = []
  | .packet _ => ps = []
  | .delivered _ => ps = []

/-- Every packet pushed is accounted for exactly once, in the order pushed: split among the events, each of which names or
decodes its part, then the trigger held, then the packets waiting (60_exceptions.md R283). -/
def State.AccountsPackets (s : State) : Prop :=
  (∀ a, s.dsp = .ephPending a → typeOfTag a.b0 = some .ephemeris) ∧
  ∃ parts, List.Forall₂ (Event.accountsFor s.params.ephLayout) s.trace parts ∧
    packetsOf s.trace = parts.flatten ++ s.dsp.held ++ s.pq

/-- A record is the decoding of packets that stand one after the other in `ps` (42_checksum_dispatch.md R169, R171). -/
def decodedFrom (layout : Six BitField) (ps : List Packet) (r : Record) : Prop :=
  ∃ qs, qs <:+: ps ∧ decodesTo layout qs r

/-- Every record pushed is the decoding of packets pushed, and what the dispatcher holds and what waits for it are the
last packets pushed (42_checksum_dispatch.md R169, R171, 20_memory.md R57). -/
def State.RecordsSound (s : State) : Prop :=
  (∀ a, s.dsp = .ephPending a → typeOfTag a.b0 = some .ephemeris) ∧
  (s.dsp.held ++ s.pq) <:+ packetsOf s.trace ∧
  ∀ r ∈ recordsOf s.trace, decodedFrom s.params.ephLayout (packetsOf s.trace) r

/-- The same state with every channel unbounded, the reference of 00_scope.md R7. -/
def State.unbounded (s : State) : State :=
  { s with params := { s.params with frameDepth := none, packetDepth := none, recordDepth := none } }

/-- A run: one scheduled step after another, each answering the next state (00_scope.md R12, 10_state.md R20). -/
def IsRun (states : Nat → State) (acts : Nat → Action) : Prop :=
  ∀ n, exec (acts n).toInstr (states n) = .next (states (n + 1))

/-- Some step of this agent of the block, or of the sink, is enabled. -/
def agentEnabled (s : State) (g : Agent) : Prop :=
  ∃ a ∈ drainOrder, a.agent = g ∧ enabled s a = true

/-- Weak fairness: an agent of the block, or the sink, that stays enabled eventually takes an enabled step
(60_exceptions.md R281). A premise on runs, log 13. -/
def WeaklyFair (states : Nat → State) (acts : Nat → Action) : Prop :=
  ∀ g n, (∀ m, n ≤ m → agentEnabled (states m) g) →
    ∃ m, n ≤ m ∧ (acts m).agent = g ∧ enabled (states m) (acts m) = true

/-- The state an operation answers, if it answers one. -/
def nextOf : Host.Outcome State Fault Refusal → Option State
  | .next s => some s
  | .fault _ => none
  | .refused _ => none

end Sys2Proof.Machine
end

