-- ==== Sys2Proof/Certificates/Slice0/Obligations.lean ====
section
/-! DEFINITION. What is stated about the machine, for the provers. Each docstring names the rules of spec/ it rests on.
`{ s with … }` in a conclusion states the frame: every element of the state that is not named is unchanged. The block
has no addressable memory (20_memory.md R50), so no statement speaks of bytes of memory. -/

open Sys2Proof Sys2Proof.Machine

/-! Steps and decoding -/

/-- A step takes the schedule's first step, or, where the schedule names none, the freely chosen one, whatever it is
(00_scope.md R12, 10_state.md R20). The form of the schedule is the model's choice: log 1. The spec's own decisions
among these: R12 (D1), R20 (D1) (log 20). -/
def Obligations.StepTakesScheduledAction : Prop :=
  (∀ s a rest, s.sched = a :: rest → step s = exec a.toInstr { s with sched := rest }) ∧
  (∀ s, s.sched = [] → step s = exec (Config.freeAction s.tick).toInstr { s with tick := s.tick + 1 })

/-- A scheduled `DSP_POP` that is enabled runs the operation the head packet's bytes decode to, with that packet taken
from `PQ` (30_encoding.md R75, R77, 42_checksum_dispatch.md R168). That the operation of a packet is an instruction of
its own, run on the packet already taken, is the model's choice: log 8. The spec's own decisions among these: R168
(D13, D26) (log 20). -/
def Obligations.StepRunsDecodedPacket : Prop :=
  ∀ s more a rest i, s.sched = .dspPop :: more → s.dsp = .idle → s.pq = a :: rest → s.rqFull = false →
    decode (.bytes a.bytes) = .ok i →
    step s = exec i { s with sched := more, pq := rest }

/-- A scheduled `DSP_EPH` that is enabled and finds a follower runs the operation the bytes of trigger and follower
decode to, with both taken (30_encoding.md R77, R84, 42_checksum_dispatch.md R171). The same choice of the model: log
8. The spec's own decisions among these: R84 (D11), R171 (D24) (log 20). -/
def Obligations.StepRunsDecodedPair : Prop :=
  ∀ s more a b rest i, s.sched = .dspEph :: more → s.dsp = .ephPending a → s.pq = b :: rest → s.rqFull = false →
    decode (.bytes (a.bytes ++ b.bytes)) = .ok i →
    step s = exec i { s with sched := more, dsp := .idle, pq := rest }

/-- A scheduled `SYN_BIT` that is enabled takes its bit into the window and then runs the operation the window decodes
to; if it decodes to none, it ends there (40_frame_sync.md R124, R125). That the match is an instruction of its own is
the model's choice: log 9. The spec's own decisions among these: R124 (D25) (log 20). -/
def Obligations.StepRunsDecodedWindow : Prop :=
  ∀ s more b, s.sched = .synBit :: more → s.inBit = some b → s.fqFull = false →
    (∀ i, decode (.window (slideWindow s.w b)) = .ok i →
      step s = exec i { s with sched := more, inPos := s.inPos + 1, w := slideWindow s.w b,
                               trace := s.trace ++ [.bit b] }) ∧
    (∀ e, decode (.window (slideWindow s.w b)) = .error e →
      step s = .next { s with sched := more, inPos := s.inPos + 1, w := slideWindow s.w b,
                              trace := s.trace ++ [.bit b] })

/-- Words written out from the spec's vectors decode to the operations they stand for (30_encoding.md R72, R75;
95_test_vectors.md Q2, M1, U1, N1, L4v, H4, F1, the check-byte examples behind F9, and Y2). The last three clauses are
no vectors of the spec: they are words numbered as the opcode table numbers them, with zeros above, and that numbering
is the model's choice (log 16). The spec's own inferences among these: R72 (log 20). -/
def Obligations.VectorWordsDecode : Prop :=
  decode (.bytes [0x65, 0xA8, 0xF9, 0x07, 0x00, 0x00, 0x30, 0x00, 0x00, 0x00, 0x30, 0x93]) =
    .ok (.decSync ⟨0x65, 0xA8, 0xF9, 0x07, 0x00, 0x00, 0x30, 0x00, 0x00, 0x00, 0x30, 0x93⟩) ∧
  decode (.bytes [0x1A, 0x30, 0x01, 0x02, 0x03, 0x04, 0x05, 0x06, 0x07, 0x08, 0x66, 0x2C]) =
    .ok (.decMsg ⟨0x1A, 0x30, 0x01, 0x02, 0x03, 0x04, 0x05, 0x06, 0x07, 0x08, 0x66, 0x2C⟩) ∧
  decode (.bytes [0x1B, 0x21, 0x77, 0x00, 0x00, 0x00, 0x00, 0x00, 0x10, 0x00, 0x2E, 0x0F]) =
    .ok (.decUpl ⟨0x1B, 0x21, 0x77, 0x00, 0x00, 0x00, 0x00, 0x00, 0x10, 0x00, 0x2E, 0x0F⟩) ∧
  decode (.bytes [0x1C, 0x99, 0x50, 0x00, 0x00, 0x00, 0x00, 0x00, 0x00, 0x00, 0x02, 0xF9]) =
    .ok (.decDnl ⟨0x1C, 0x99, 0x50, 0x00, 0x00, 0x00, 0x00, 0x00, 0x00, 0x00, 0x02, 0xF9⟩) ∧
  decode (.bytes [0x22, 0x00, 0x00, 0x56, 0x34, 0x12, 0xF0, 0xDE, 0xBC, 0x9A, 0x72, 0xAC]) =
    .ok (.decEle ⟨0x22, 0x00, 0x00, 0x56, 0x34, 0x12, 0xF0, 0xDE, 0xBC, 0x9A, 0x72, 0xAC⟩) ∧
  decode (.bytes [0x1F, 0x05, 0xD2, 0xAA, 0x0E, 0x00, 0x80, 0xE0, 0x93, 0x04, 0x00, 0x80,
                  0x40, 0x42, 0x0F, 0xA8, 0x61, 0x00, 0x46, 0x05, 0x98, 0x08, 0xDC, 0x7A]) =
    .ok (.decEph ⟨0x1F, 0x05, 0xD2, 0xAA, 0x0E, 0x00, 0x80, 0xE0, 0x93, 0x04, 0x00, 0x80⟩
                 ⟨0x40, 0x42, 0x0F, 0xA8, 0x61, 0x00, 0x46, 0x05, 0x98, 0x08, 0xDC, 0x7A⟩) ∧
  decode (.bytes (List.replicate 12 0)) = .ok (.discUnk ⟨0, 0, 0, 0, 0, 0, 0, 0, 0, 0, 0, 0⟩) ∧
  decode (.bytes [0x1D, 0x00, 0x00, 0x00, 0x00, 0x00, 0x00, 0x00, 0x00, 0x00, 0xC1, 0x22]) =
    .ok (.discNc ⟨0x1D, 0x00, 0x00, 0x00, 0x00, 0x00, 0x00, 0x00, 0x00, 0x00, 0xC1, 0x22⟩) ∧
  decode (.bytes [0x1E, 0x00, 0x00, 0x00, 0x00, 0x00, 0x00, 0x00, 0x00, 0x00, 0xB6, 0x2C]) =
    .ok (.discFill ⟨0x1E, 0x00, 0x00, 0x00, 0x00, 0x00, 0x00, 0x00, 0x00, 0x00, 0xB6, 0x2C⟩) ∧
  decode (.window [true, false, true, false, false, true, true, false, false, false, false, true,
                   false, true, false, true, true, false, false, true, true, true, true, true]) = .ok .syncMatch ∧
  decodeTableWord 8 0x1D = some (.discNc ⟨0x1D, 0, 0, 0, 0, 0, 0, 0, 0, 0, 0, 0⟩) ∧
  decodeTableWord 8 0x1E = some (.discFill ⟨0x1E, 0, 0, 0, 0, 0, 0, 0, 0, 0, 0, 0⟩) ∧
  decodeTableWord 24 0xA6159F = some .syncMatch

/-- Decoding the words of a well-formed operation gives it back, for every operation that has an encoding and every
operand (30_encoding.md R72, R75, R77). The spec's own inferences among these: R72 (log 20). -/
def Obligations.DecodeOfEncodeIsIdentity : Prop :=
  ∀ i ws, i.wellFormed = true → encode i = some ws → decode ws = .ok i

/-- Bytes decode only to a well-formed operation whose words they are; a window decodes only to the match, and only
with the sync word in its 24 oldest bits (30_encoding.md R75, R77, 40_frame_sync.md R125). -/
def Obligations.EncodeOfDecodeIsIdentity : Prop :=
  (∀ l i, decode (.bytes l) = .ok i → i.wellFormed = true ∧ encode i = some (.bytes l)) ∧
  (∀ w i, decode (.window w) = .ok i ↔ i = .syncMatch ∧ ∃ rest, w = syncWord ++ rest)

/-- No tag is illegal: twelve bytes decode to an operation whatever the tag, except that tag 0x1F needs a follower,
with which any 24 bytes behind it decode (30_encoding.md R75, R76, R77). -/
def Obligations.EveryTagDecodes : Prop :=
  (∀ l : List Byte, l.length = 12 → l.head? ≠ some 0x1F#8 → ∃ i, decode (.bytes l) = .ok i) ∧
  (∀ l : List Byte, l.length = 24 → l.head? = some 0x1F#8 → ∃ a b, decode (.bytes l) = .ok (.decEph a b))

/-! Reset -/

/-- The block's state right after reset, with the parameters at the spec's defaults (10_state.md R35, 00_scope.md R7).
That the three depths are `none` is the model's choice: log 3. The spec's own decisions among these: R35 (D5, D7), R7
(D3) (log 20). -/
def Obligations.ResetStateValues : Prop :=
  State.reset.w = [] ∧ State.reset.fq = [] ∧ State.reset.pzRem = none ∧ State.reset.pq = [] ∧
  State.reset.dsp = .idle ∧ State.reset.rq = [] ∧ State.reset.cfgEnable = 0xFF#8 ∧ State.reset.trace = [] ∧
  State.reset.params = ⟨none, none, none, 0xFF#8,
    ⟨⟨16, 20⟩, ⟨36, 20⟩, ⟨56, 20⟩, ⟨76, 20⟩, ⟨96, 20⟩, ⟨116, 20⟩⟩, false⟩

/-- `RESET` is always enabled and sets every piece of the block's state to its reset value, drops what is in flight
without an event, and moves neither the host's position nor the parameters (70_reset_and_hazards.md R300). That the
host's read data and the schedule stay is the model's choice: log 18. The spec's own decisions among these: R300 (D7)
(log 20). -/
def Obligations.ResetClearsTheBlock : Prop :=
  ∀ s, exec .reset s = .next { s with
    w := [], fq := [], pzRem := none, pq := [], dsp := .idle, rq := [],
    cfgEnable := s.params.enableReset, trace := [] }

/-- The state after reset meets every invariant stated here, and its depths are legal (10_state.md R35, R39). The
depths and the host's side are the model's choice: logs 3, 4. The spec's own decisions among these: R35 (D5, D7) and
its inferences: R39 (log 20). -/
def Obligations.ResetMeetsInvariants : Prop :=
  State.reset.Inv ∧ State.reset.depthsLegal ∧ State.reset.FollowsBits ∧ State.reset.FollowsFrames ∧
  State.reset.FollowsRecords ∧ State.reset.AccountsPackets ∧ State.reset.RecordsSound

/-! The frame synchronizer -/

/-- The match predicate compares the 24 oldest bits, all of them, with the sync word (40_frame_sync.md R125). -/
def Obligations.MatchComparesOldestBits : Prop :=
  ∀ w : List Bool, windowMatches w = true ↔
    24 ≤ w.length ∧ ∀ i, i < 24 → w[i]? =
      [true, false, true, false, false, true, true, false, false, false, false, true,
       false, true, false, true, true, false, false, true, true, true, true, true][i]?

/-- `SYN_BIT` on an offered bit with room in `FQ`, where the bit is the one at the position of a finite `IN` or of the
listed part of an unbounded one, or behind that part one of the unbounded source: the bit is taken and recorded, the
window slides at capacity, and on a match the whole window is pushed and recorded; nothing else changes (10_state.md
R36, 40_frame_sync.md R124, R127). That an unbounded `IN` is a listed part and a free source is the model's choice:
log 4. The spec's own decisions among these: R36 (D2), R124 (D25) (log 20). -/
def Obligations.SynBitTakesOneBit : Prop :=
  ∀ s b w',
    (s.inBits[s.inPos]? = some b ∨
      (s.inBits.length ≤ s.inPos ∧ ∃ k, s.inSource = some k ∧ b = Config.sourceBit k s.inPos)) →
    s.fqFull = false →
    w' = (if s.w.length = 4800 then s.w.drop 1 else s.w) ++ [b] →
    exec .synBit s = .next { s with
      inPos := s.inPos + 1
      w := w'
      fq := s.fq ++ (if windowMatches w' then [w'] else [])
      trace := s.trace ++ .bit b :: (if windowMatches w' then [.frame w'] else []) }

/-- `SYNC_MATCH` with room in `FQ`: a matching window is pushed as a frame and recorded, any other leaves all as it
was (40_frame_sync.md R124, R125). That the match is an instruction of its own is the model's choice: log 9. The
spec's own decisions among these: R124 (D25) (log 20). -/
def Obligations.SyncMatchPushesWindow : Prop :=
  ∀ s, s.fqFull = false →
    exec .syncMatch s = .next { s with
      fq := s.fq ++ (if windowMatches s.w then [s.w] else [])
      trace := s.trace ++ (if windowMatches s.w then [.frame s.w] else []) }

/-- Warm-up of a stream of at most 4800 bits: if its first 24 bits are the sync word, every bit from the 24th on gives
one frame, all the bits so far; if not, there is no frame (40_frame_sync.md R126, R131). The spec's own decisions
among these: R131 (D20) and its inferences: R126 (log 20). -/
def Obligations.WarmUpFrames : Prop :=
  ∀ bits : List Bool, bits.length ≤ 4800 →
    (bits.take 24 = syncWord →
      framesOfBits bits = (List.range (bits.length - 23)).map fun k => bits.take (k + 24)) ∧
    (bits.take 24 ≠ syncWord → framesOfBits bits = [])

/-- In a stream, the candidate start `j ≥ 1` is tested at the bit `j + 4799` and gives the 4800 bits from `j` on as a
frame just when the sync word stands there; one bit more in a stream gives no other frame (40_frame_sync.md R128,
R130). The spec's own inferences among these: R128, R130 (log 20). -/
def Obligations.SteadyStateFrames : Prop :=
  ∀ (bits : List Bool) (b : Bool), 4800 ≤ bits.length →
    framesOfBits (bits ++ [b]) = framesOfBits bits ++
      (if ((bits ++ [b]).drop (bits.length - 4799)).take 24 = syncWord
       then [(bits ++ [b]).drop (bits.length - 4799)] else [])

/-! The packetizer -/

/-- A byte of a frame is the sum of its eight bits, the first the least significant (41_packetizer.md R141). -/
def Obligations.ByteIsSumOfBits : Prop :=
  ∀ (f : List Bool) (j : Nat), j < f.length / 8 →
    (byteAt f j).toNat = ((List.range 8).map fun i => (f.getD (8 * j + i) false).toNat * 2 ^ i).sum

/-- The packets of a frame: one for each whole 96 bits, each of the twelve bytes in order; what is left over is
counted in bits and bytes (41_packetizer.md R142). -/
def Obligations.PacketsAreTwelveByteRuns : Prop :=
  ∀ f : List Bool, nbytes f = f.length / 8 ∧ npackets f = f.length / 96 ∧
    packets f = (List.range (f.length / 96)).map (packetAt f) ∧
    (∀ k, (packetAt f k).bytes = (List.range 12).map fun m => byteAt f (12 * k + m)) ∧
    droppedBits f = f.length % 8 ∧ droppedBytes f = f.length / 8 % 12

/-- Packets laid out bit by bit, least significant bit first, and any fewer than 96 bits behind them, reassemble to
exactly those packets (41_packetizer.md R148). The spec's own inferences among these: R148 (log 20). -/
def Obligations.PacketsRoundTrip : Prop :=
  ∀ (ps : List Packet) (rest : List Bool), rest.length < 96 →
    packets (ps.flatMap packetBits ++ rest) = ps

/-- Bit numbering over a packet is stream order: bit `n` of packet `k` is bit `96k + n` of the frame (20_memory.md
R54). The spec's own inferences among these: R54 (log 20). -/
def Obligations.PacketBitIsFrameBit : Prop :=
  ∀ (f : List Bool) (k n : Nat), k < npackets f → n < 96 →
    f[96 * k + n]? = some (bitAt (packetAt f k).bytes n)

/-- Packet 0 of a frame of 96 bits or more begins with the bytes 0x65, 0xA8, 0xF9 (30_encoding.md R73). The spec's own
inferences among these: R73 (log 20). -/
def Obligations.FramePacketZeroIsSync : Prop :=
  ∀ f, frameWf f → 96 ≤ f.length →
    ∃ p ps, packets f = p :: ps ∧ p.b0 = 0x65#8 ∧ p.b1 = 0xA8#8 ∧ p.b2 = 0xF9#8

/-- `PKZ_LOAD` on an idle packetizer with a frame waiting: the frame is taken, its packets are in hand (`none` if
there is none), and a length that is no multiple of 96 is recorded as one drop (41_packetizer.md R145). The spec's own
decisions among these: R145 (D14, D27) (log 20). -/
def Obligations.PkzLoadTakesFrame : Prop :=
  ∀ s f rest, s.pzRem = none → s.fq = f :: rest →
    exec .pkzLoad s = .next { s with
      fq := rest
      pzRem := if f.length < 96 then none else some (packets f)
      trace := s.trace ++
        (if f.length % 96 = 0 then [] else [.drop (.incompleteFrameData (f.length % 8) (f.length / 8 % 12))]) }

/-- `PKZ_EMIT` with a packet in hand and room in `PQ`: the first packet is pushed and recorded, the rest stay in hand
(41_packetizer.md R146). The spec's own decisions among these: R146 (D27) (log 20). -/
def Obligations.PkzEmitPushesPacket : Prop :=
  ∀ s p rest, s.pzRem = some (p :: rest) → s.pqFull = false →
    exec .pkzEmit s = .next { s with
      pq := s.pq ++ [p]
      pzRem := if rest = [] then none else some rest
      trace := s.trace ++ [.packet p] }

/-! The checksum -/

/-- The two Fletcher sums in closed form (42_checksum_dispatch.md R162). The spec's own inferences among these: R162
(log 20). -/
def Obligations.FletcherClosedForm : Prop :=
  ∀ bs : List Byte,
    (fletcherSums bs).1 = (bs.map BitVec.toNat).sum % 256 ∧
    (fletcherSums bs).2 =
      ((List.range bs.length).map fun i => (bs.length - i) * (bs.getD i 0).toNat).sum % 256

/-- After a valid part, the whole is valid just when the rest is; leading zero bytes change nothing
(42_checksum_dispatch.md R162). The spec's own inferences among these: R162 (log 20). -/
def Obligations.FletcherConcatenation : Prop :=
  (∀ a b : List Byte, valid a = true → (valid (a ++ b) = true ↔ valid b = true)) ∧
  (∀ (n : Nat) (b : List Byte), valid (List.replicate n 0 ++ b) = valid b)

/-- The check bytes make any bytes valid, and no other two do (30_encoding.md R74). The spec's own inferences among
these: R74 (log 20). -/
def Obligations.CheckBytesAreUnique : Prop :=
  ∀ (bs : List Byte) (x y : Byte), valid (bs ++ [x, y]) = true ↔ [x, y] = checkBytes bs

/-- Changing one byte of a valid sequence, wherever it stands, makes it invalid (42_checksum_dispatch.md R162,
95_test_vectors.md S2). The spec's own inferences among these: R162 (log 20). -/
def Obligations.OneByteChangeIsDetected : Prop :=
  ∀ (before after : List Byte) (x y : Byte), x ≠ y →
    valid (before ++ x :: after) = true → valid (before ++ y :: after) = false

/-! The dispatcher -/

/-- The route of a tag under an enable word (42_checksum_dispatch.md R165, R166, R167). The spec's own decisions among
these: R165 (D4), R167 (D19) (log 20). -/
def Obligations.RouteFollowsTable : Prop :=
  ∀ t en : Byte,
    route t en =
      if t = 0x65#8 ∧ en.getLsbD 0 = true then .single .synchronization
      else if t = 0x1A#8 ∧ en.getLsbD 1 = true then .single .message
      else if t = 0x1B#8 ∧ en.getLsbD 2 = true then .single .uplink
      else if t = 0x1C#8 ∧ en.getLsbD 3 = true then .single .downlink
      else if t = 0x1F#8 ∧ en.getLsbD 6 = true then .eph
      else if t = 0x22#8 ∧ en.getLsbD 7 = true then .single .elements
      else .discard

/-- `DSP_POP` on an idle dispatcher with a packet waiting and room in `RQ` takes the packet and does what its route
and its checksum say, routing first (42_checksum_dispatch.md R168, R170, 60_exceptions.md R273). The spec's own
decisions among these: R168 (D13, D26), R170 (D13), R273 (D14) (log 20). -/
def Obligations.DspPopFollowsRoute : Prop :=
  ∀ s a rest, s.dsp = .idle → s.pq = a :: rest → s.rqFull = false →
    (route a.b0 s.cfgEnable = .discard →
      exec .dspPop s = .next { s with pq := rest, trace := s.trace ++ [.drop (.unknownOrDisabled a)] }) ∧
    (∀ t, route a.b0 s.cfgEnable = .single t → fletcher a.bytes ≠ 0 →
      exec .dspPop s = .next { s with pq := rest, trace := s.trace ++ [.drop (.checksumFailure a none)] }) ∧
    (∀ t, route a.b0 s.cfgEnable = .single t → fletcher a.bytes = 0 →
      ∃ r, singleRecord t a = some r ∧
        exec .dspPop s = .next { s with pq := rest, rq := s.rq ++ [r], trace := s.trace ++ [.record r] }) ∧
    (route a.b0 s.cfgEnable = .eph → s.params.ephTriggerPrecheck = true → fletcher a.bytes ≠ 0 →
      exec .dspPop s = .next { s with pq := rest, trace := s.trace ++ [.drop (.checksumFailure a none)] }) ∧
    (route a.b0 s.cfgEnable = .eph → (s.params.ephTriggerPrecheck = false ∨ fletcher a.bytes = 0) →
      exec .dspPop s = .next { s with pq := rest, dsp := .ephPending a })

/-- `DSP_EPH` with a trigger held and room in `RQ`: an empty `PQ` abandons the trigger; otherwise the follower is
taken whatever its bytes, and the pair is decoded if its 24 bytes pass the checksum, dropped if not
(42_checksum_dispatch.md R171, R172). The spec's own decisions among these: R171 (D24) and its inferences: R172 (log
20). -/
def Obligations.DspEphLooksAhead : Prop :=
  ∀ s a, s.dsp = .ephPending a → s.rqFull = false →
    (s.pq = [] →
      exec .dspEph s = .next { s with dsp := .idle, trace := s.trace ++ [.drop (.reassemblyUnavailable a)] }) ∧
    (∀ b rest, s.pq = b :: rest → fletcher (a.bytes ++ b.bytes) = 0 →
      exec .dspEph s = .next { s with
        dsp := .idle, pq := rest
        rq := s.rq ++ [decEph s.params.ephLayout a b]
        trace := s.trace ++ [.record (decEph s.params.ephLayout a b)] }) ∧
    (∀ b rest, s.pq = b :: rest → fletcher (a.bytes ++ b.bytes) ≠ 0 →
      exec .dspEph s = .next { s with
        dsp := .idle, pq := rest, trace := s.trace ++ [.drop (.checksumFailure a (some b))] })

/-- `DISC_NC`, `DISC_FILL` and `DISC_UNK` with room in `RQ` record one drop and change nothing else, whatever the
enable flags hold (42_checksum_dispatch.md R166, R167). That each is an instruction of its own, run on a packet
already taken, is the model's choice: log 8. The spec's own decisions among these: R167 (D19) (log 20). -/
def Obligations.DiscardsRecordOneDrop : Prop :=
  ∀ s p, s.rqFull = false → ∀ i ∈ [Instr.discNc p, Instr.discFill p, Instr.discUnk p],
    exec i s = .next { s with trace := s.trace ++ [.drop (.unknownOrDisabled p)] }

/-- The operations of packets with a decoder, with room in `RQ`: a disabled single-packet type is dropped whatever its
checksum, an enabled one with a bad checksum is dropped as such, a pair with a bad 24-byte checksum is dropped under
both its packets' names, and nothing else changes (42_checksum_dispatch.md R165, R168, R171, 60_exceptions.md R271,
R273). That each is an instruction of its own, run on a packet already taken, is the model's choice: log 8. The spec's
own decisions among these: R165 (D4), R168 (D13, D26), R171 (D24), R271 (D14), R273 (D14) (log 20). -/
def Obligations.BadOrDisabledPacketsAreDropped : Prop :=
  ∀ s p, s.rqFull = false →
    (∀ ib ∈ [(Instr.decSync p, 0), (Instr.decMsg p, 1), (Instr.decUpl p, 2), (Instr.decDnl p, 3), (Instr.decEle p, 7)],
      (s.cfgEnable.getLsbD ib.2 = false →
        exec ib.1 s = .next { s with trace := s.trace ++ [.drop (.unknownOrDisabled p)] }) ∧
      (s.cfgEnable.getLsbD ib.2 = true → fletcher p.bytes ≠ 0 →
        exec ib.1 s = .next { s with trace := s.trace ++ [.drop (.checksumFailure p none)] })) ∧
    (∀ b, fletcher (p.bytes ++ b.bytes) ≠ 0 →
      exec (.decEph p b) s = .next { s with trace := s.trace ++ [.drop (.checksumFailure p (some b))] })

/-! The field decoders -/

/-- `DEC_SYNC(P)` reads byte 3 and the high nibble of byte 6; `DEC_MSG(P)` reads its fragment fields from byte 1 and
its payload from bytes 9 down to 2; neither reads anything else (43_decoders_link.md R190, R195). -/
def Obligations.SyncAndMessageFields : Prop :=
  ∀ p : Packet,
    decSync p = .sync { scId := p.b3.toNat, minorFrame := p.b6.toNat / 16 } ∧
    decMsg p = .msg {
      fragIndex := p.b1.toNat % 16 + 1
      fragCount := p.b1.toNat / 16
      payload := [p.b9, p.b8, p.b7, p.b6, p.b5, p.b4, p.b3, p.b2] }

/-- The spacecraft id, the GPS week and the GPS seconds of an ephemeris pair, under any layout (44_decoders_orbit.md
R241, R242). -/
def Obligations.EphemerisIdAndTimeFields : Prop :=
  ∀ layout a b, ∃ r, decEph layout a b = .eph r ∧ r.scId = a.b1.toNat ∧
    r.gpsWeek = b.b8.toNat + 2 ^ 8 * b.b9.toNat ∧
    r.gpsSeconds = b.b5.toNat + 2 ^ 8 * b.b6.toNat + 2 ^ 16 * b.b7.toNat

/-- `DEC_SYNC` completes on a packet of an enabled type that passes its checksum, with room in `RQ`: its record is
pushed and recorded, nothing else changes (42_checksum_dispatch.md R168, 43_decoders_link.md R190). That it is an
instruction of its own, run on a packet already taken, is the model's choice: log 8. The spec's own decisions among
these: R168 (D13, D26) (log 20). -/
def Obligations.DecSyncEmitsRecord : Prop :=
  ∀ s p r, s.rqFull = false → s.cfgEnable.getLsbD 0 = true → fletcher p.bytes = 0 →
    r = Record.sync { scId := p.b3.toNat, minorFrame := p.b6.toNat / 16 } →
    exec (.decSync p) s = .next { s with rq := s.rq ++ [r], trace := s.trace ++ [.record r] }

/-- `DEC_MSG` completes likewise (42_checksum_dispatch.md R168, 43_decoders_link.md R195). That it is an instruction
of its own, run on a packet already taken, is the model's choice: log 8. The spec's own decisions among these: R168
(D13, D26) (log 20). -/
def Obligations.DecMsgEmitsRecord : Prop :=
  ∀ s p r, s.rqFull = false → s.cfgEnable.getLsbD 1 = true → fletcher p.bytes = 0 →
    r = Record.msg { fragIndex := p.b1.toNat % 16 + 1, fragCount := p.b1.toNat / 16
                     payload := [p.b9, p.b8, p.b7, p.b6, p.b5, p.b4, p.b3, p.b2] } →
    exec (.decMsg p) s = .next { s with rq := s.rq ++ [r], trace := s.trace ++ [.record r] }

/-- `DEC_UPL` completes likewise: with `X` the little-endian value of bytes 3 to 8, the nonzero ones of the four
12-bit slices of `X` from the top, each with its frequency (43_decoders_link.md R201 to R204; nibble order
92_eei_decisions.md D10). That it is an instruction of its own, run on a packet already taken, is the model's choice:
log 8. The spec's own decisions among these: R203 (D18), R204 (D9) and its inferences: R202 (log 20). -/
def Obligations.DecUplEmitsRecord : Prop :=
  ∀ s p x r, s.rqFull = false → s.cfgEnable.getLsbD 2 = true → fletcher p.bytes = 0 →
    x = le [p.b3, p.b4, p.b5, p.b6, p.b7, p.b8] →
    r = Record.upl {
      fragIndex := p.b1.toNat % 16 + 1
      fragCount := p.b1.toNat / 16
      chans := ([bitSlice x 47 36, bitSlice x 35 24, bitSlice x 23 12, bitSlice x 11 0].filter (· ≠ 0)).map
        fun v => ⟨v, 148000000 + 2500 * v⟩ } →
    exec (.decUpl p) s = .next { s with rq := s.rq ++ [r], trace := s.trace ++ [.record r] }

/-- `DEC_DNL` completes likewise: with `X` the little-endian value of bytes 2 to 9, those of the five 12-bit slices of
`X[59:0]` from the top that lie in 80 to 320, each with its frequency (43_decoders_link.md R207 to R210; nibble order
92_eei_decisions.md D10). That it is an instruction of its own, run on a packet already taken, is the model's choice:
log 8. The spec's own decisions among these: R208 (D30), R209 (D18), R210 (D9) and its inferences: R208 (log 20). -/
def Obligations.DecDnlEmitsRecord : Prop :=
  ∀ s p x r, s.rqFull = false → s.cfgEnable.getLsbD 3 = true → fletcher p.bytes = 0 →
    x = le [p.b2, p.b3, p.b4, p.b5, p.b6, p.b7, p.b8, p.b9] →
    r = Record.dnl {
      chans := ([bitSlice x 59 48, bitSlice x 47 36, bitSlice x 35 24, bitSlice x 23 12, bitSlice x 11 0].filter
        fun v => 80 ≤ v ∧ v ≤ 320).map fun v => ⟨v, 137000000 + 2500 * v⟩ } →
    exec (.decDnl p) s = .next { s with rq := s.rq ++ [r], trace := s.trace ++ [.record r] }

/-- `DEC_ELE` completes likewise: mean anomaly from bytes 3 to 5, mean motion from bytes 6 to 9, scaled exactly
(44_decoders_orbit.md R250 to R252). That it is an instruction of its own, run on a packet already taken, is the
model's choice: log 8. The spec's own decisions among these: R251 (D9), R252 (D9) (log 20). -/
def Obligations.DecEleEmitsRecord : Prop :=
  ∀ s p ma mm r, s.rqFull = false → s.cfgEnable.getLsbD 7 = true → fletcher p.bytes = 0 →
    ma = p.b3.toNat + 2 ^ 8 * p.b4.toNat + 2 ^ 16 * p.b5.toNat →
    mm = p.b6.toNat + 2 ^ 8 * p.b7.toNat + 2 ^ 16 * p.b8.toNat + 2 ^ 24 * p.b9.toNat →
    r = Record.ele { maRaw := ma, maNum := 360 * ma, mmRaw := mm, mmNum := 1500000106 * mm } →
    exec (.decEle p) s = .next { s with rq := s.rq ++ [r], trace := s.trace ++ [.record r] }

/-- `DEC_EPH` completes on a pair that passes its 24-byte checksum, with room in `RQ`, under any layout and any enable
flags: its record has the fields of the pair's bytes, positions and velocities scaled, norms and height rounded down;
it is pushed and recorded, nothing else changes. A field inside the bytes is the sum of its bits, the first the least
significant, and bit `n` of a byte sequence is bit `n mod 8` of byte `n div 8` (42_checksum_dispatch.md R171,
44_decoders_orbit.md R240 to R247, R233, 20_memory.md R54). That it is an instruction of its own, run on packets
already taken, is the model's choice: log 8; a field that reaches past the bytes takes free bits: log 10. The spec's
own decisions among these: R171 (D24), R245 (D29), R246 (D15), R247 (D15), R233 (D11) and its inferences: R54 (log
20). -/
def Obligations.DecEphEmitsRecord : Prop :=
  (∀ s a b week secs raw pos vel r, s.rqFull = false → fletcher (a.bytes ++ b.bytes) = 0 →
      week = b.b8.toNat + 2 ^ 8 * b.b9.toNat →
      secs = b.b5.toNat + 2 ^ 8 * b.b6.toNat + 2 ^ 16 * b.b7.toNat →
      raw = Six.mk
        (field (a.bytes ++ b.bytes) s.params.ephLayout.x.off s.params.ephLayout.x.width)
        (field (a.bytes ++ b.bytes) s.params.ephLayout.y.off s.params.ephLayout.y.width)
        (field (a.bytes ++ b.bytes) s.params.ephLayout.z.off s.params.ephLayout.z.width)
        (field (a.bytes ++ b.bytes) s.params.ephLayout.vx.off s.params.ephLayout.vx.width)
        (field (a.bytes ++ b.bytes) s.params.ephLayout.vy.off s.params.ephLayout.vy.width)
        (field (a.bytes ++ b.bytes) s.params.ephLayout.vz.off s.params.ephLayout.vz.width) →
      pos = Axes.mk (8378155 * (2 * (raw.x : Int) - 2 ^ 20)) (8378155 * (2 * (raw.y : Int) - 2 ^ 20))
        (8378155 * (2 * (raw.z : Int) - 2 ^ 20)) →
      vel = Axes.mk (7700 * (2 * (raw.vx : Int) - 2 ^ 20)) (7700 * (2 * (raw.vy : Int) - 2 ^ 20))
        (7700 * (2 * (raw.vz : Int) - 2 ^ 20)) →
      r = Record.eph {
        scId := a.b1.toNat
        gpsWeek := week
        gpsSeconds := secs
        gpsTime := 604800 * week + secs
        raw := raw
        pos := pos
        vel := vel
        radius := Nat.sqrt (pos.x ^ 2 + pos.y ^ 2 + pos.z ^ 2).toNat
        height := (Nat.sqrt (pos.x ^ 2 + pos.y ^ 2 + pos.z ^ 2).toNat : Int) - 6378150 * 2 ^ 20
        speed := Nat.sqrt (vel.x ^ 2 + vel.y ^ 2 + vel.z ^ 2).toNat } →
      exec (.decEph a b) s = .next { s with rq := s.rq ++ [r], trace := s.trace ++ [.record r] }) ∧
  (∀ (bs : List Byte) (n : Nat), n < 8 * bs.length →
    bs[n / 8]?.map (fun x => x.getLsbD (n % 8)) = some (bitAt bs n)) ∧
  (∀ (bs : List Byte) (o w : Nat), o + w ≤ 8 * bs.length →
    field bs o w = ((List.range w).map fun k => (bitAt bs (o + k)).toNat * 2 ^ k).sum)

/-- The six raw fields under the default layout in closed form (30_encoding.md R84; the layout is the spec's own
choice, 92_eei_decisions.md D11). The spec's own decisions among these: R84 (D11) (log 20). -/
def Obligations.DefaultLayoutClosedForms : Prop :=
  ∀ a b : Packet, rawFields defaultEphLayout (a.bytes ++ b.bytes) = {
    x := a.b2.toNat + 256 * a.b3.toNat + 65536 * (a.b4.toNat % 16)
    y := a.b4.toNat / 16 + 16 * a.b5.toNat + 4096 * a.b6.toNat
    z := a.b7.toNat + 256 * a.b8.toNat + 65536 * (a.b9.toNat % 16)
    vx := a.b9.toNat / 16 + 16 * a.b10.toNat + 4096 * a.b11.toNat
    vy := b.b0.toNat + 256 * b.b1.toNat + 65536 * (b.b2.toNat % 16)
    vz := b.b2.toNat / 16 + 16 * b.b3.toNat + 4096 * b.b4.toNat }

/-- Every record of an ephemeris under the default layout fits the port widths of the record format, signed words in
two's complement (30_encoding.md R95). The spec's own decisions among these: R95 (D17) (log 20). -/
def Obligations.EphRecordFitsPortWidths : Prop :=
  ∀ a b : Packet, ∃ r, decEph defaultEphLayout a b = .eph r ∧
    r.scId < 2 ^ 8 ∧ r.gpsWeek < 2 ^ 16 ∧ r.gpsSeconds < 2 ^ 24 ∧ r.gpsTime < 2 ^ 36 ∧
    (∀ v ∈ [r.raw.x, r.raw.y, r.raw.z, r.raw.vx, r.raw.vy, r.raw.vz], v < 2 ^ 20) ∧
    (∀ v ∈ [r.pos.x, r.pos.y, r.pos.z], -2 ^ 43 ≤ v ∧ v < 2 ^ 43) ∧
    (∀ v ∈ [r.vel.x, r.vel.y, r.vel.z], -2 ^ 33 ≤ v ∧ v < 2 ^ 33) ∧
    r.radius < 2 ^ 44 ∧ -2 ^ 43 ≤ r.height ∧ r.height < 2 ^ 43 ∧ r.speed < 2 ^ 34

/-- The integer square root is the floor of the square root (00_scope.md R9). The spec's own decisions among these: R9
(D9) (log 20). -/
def Obligations.IsqrtIsFloorOfSqrt : Prop :=
  ∀ n, isqrt n * isqrt n ≤ n ∧ n < (isqrt n + 1) * (isqrt n + 1)

/-! The host's steps -/

/-- `CFG_WRITE` at address 0 sets `CFG_ENABLE` to any of its 256 values and changes nothing else; `CFG_READ` at
address 0 gives the host the current value and changes nothing of the block; at any other address both are refused by
name (10_state.md R27, R28, 20_memory.md R52, 60_exceptions.md R276; where the host's answer stands is the model's
choice, log 7, and so is that the address is a natural number, log 6). The spec's own decisions among these: R27 (D4),
R28 (D4, D6), R52 (D4), R276 (D2, D4) (log 20). -/
def Obligations.ConfigurationPort : Prop :=
  (∀ s v, exec (.cfgWrite 0 v) s = .next { s with cfgEnable := v }) ∧
  (∀ s, exec (.cfgRead 0) s = .next { s with cfgData := some s.cfgEnable }) ∧
  (∀ s addr v, addr ≠ 0 →
    exec (.cfgWrite addr v) s = .refused (.cfgAddress addr) ∧ exec (.cfgRead addr) s = .refused (.cfgAddress addr))

/-- Symbols that come as the reference's bytes are offered as bits, at the end of a finite `IN`, when each is 0 or 1;
the first that is neither is refused by name, and nothing is offered (10_state.md R36, 30_encoding.md R70,
60_exceptions.md R276). The refusal's name, and that an unbounded `IN` takes no further bits, are the model's choice:
logs 14, 4. The spec's own decisions among these: R36 (D2), R70 (D2), R276 (D2, D4) (log 20). -/
def Obligations.SymbolsAreBits : Prop :=
  (∀ (l : List Bool) (s : State),
    offerSymbols (l.map fun b => if b then 1#8 else 0#8) s = .next { s with inBits := if s.inSource = none then s.inBits ++ l else s.inBits }) ∧
  (∀ (l : List Bool) (v : Byte) (rest : List Byte) (s : State), v ≠ 0#8 → v ≠ 1#8 →
    offerSymbols ((l.map fun b => if b then 1#8 else 0#8) ++ v :: rest) s = .refused (.inputSymbol v))

/-- The output port offers the head of `RQ` while there is one, as its tag and its fields, an Uplink or Downlink list
as its length and four or five slots with the unused ones 0; `SNK_TAKE` takes that head and records the delivery
(10_state.md R37, 30_encoding.md R90, R93, R94, 20_memory.md R58). The spec's own decisions among these: R37 (D8), R90
(D8, D9), R58 (D8) (log 20). -/
def Obligations.SnkTakeDeliversHead : Prop :=
  (∀ s r rest, s.rq = r :: rest →
    s.outPort = some r.port ∧
    exec .snkTake s = .next { s with rq := rest, trace := s.trace ++ [.delivered r] }) ∧
  (∀ s : State, s.rq = [] → s.outPort = none) ∧
  (∀ fi fc chans, chans.length ≤ 4 → (Record.upl ⟨fi, fc, chans⟩).port =
    ⟨0x1B#8, .upl fi fc ⟨chans.length, chans ++ List.replicate (4 - chans.length) ⟨0, 0⟩⟩⟩) ∧
  (∀ chans, chans.length ≤ 5 → (Record.dnl ⟨chans⟩).port =
    ⟨0x1C#8, .dnl ⟨chans.length, chans ++ List.replicate (5 - chans.length) ⟨0, 0⟩⟩⟩)

/-! Rules of the whole machine -/

/-- A step that is not enabled changes nothing (20_memory.md R63, 00_scope.md R11; that it waits rather than stops is
the model's reading, log 2). The spec's own decisions among these: R63 (D3), R11 (D1) (log 20). -/
def Obligations.DisabledStepWaits : Prop :=
  ∀ s a, enabled s a = false → exec a.toInstr s = .next s

/-- No operation faults, and none stops but a configuration access at an address other than 0 (60_exceptions.md R270,
R272, R276). The refusal's name and the natural-number address are the model's choice: log 6. The spec's own decisions
among these: R270 (D14), R276 (D2, D4) and its inferences: R272 (log 20). -/
def Obligations.OnlyConfigAddressStops : Prop :=
  ∀ i s, (∃ t, exec i s = .next t) ∨
    ∃ addr, addr ≠ 0 ∧ (i = .cfgRead addr ∨ ∃ v, i = .cfgWrite addr v) ∧ exec i s = .refused (.cfgAddress addr)

/-- Each element of the block, and `in_pos`, is written only by the agents the spec gives it to, `RESET` apart
(10_state.md R20, R23 to R30, R36). The clause on `cfgData`, that only `CFGH` writes it, is about the model's own
field and is the model's choice: log 7. The spec's own decisions among these: R20 (D1), R24 (D3), R25 (D27), R26 (D3),
R27 (D4), R28 (D4, D6), R29 (D24), R30 (D8), R36 (D2) (log 20). -/
def Obligations.EachElementHasItsWriters : Prop :=
  ∀ (a : Action) (s t : State), a.agent ≠ .rsth → exec a.toInstr s = .next t →
    (a.agent ≠ .syn → t.w = s.w ∧ t.inPos = s.inPos) ∧
    (a.agent ≠ .syn → a.agent ≠ .pkz → t.fq = s.fq) ∧
    (a.agent ≠ .pkz → t.pzRem = s.pzRem) ∧
    (a.agent ≠ .pkz → a.agent ≠ .dsp → t.pq = s.pq) ∧
    (a.agent ≠ .dsp → t.dsp = s.dsp) ∧
    (a.agent ≠ .dsp → a.agent ≠ .snk → t.rq = s.rq) ∧
    (a.agent ≠ .cfgh → t.cfgEnable = s.cfgEnable ∧ t.cfgData = s.cfgData) ∧
    (a.agent = .cfgh → t.trace = s.trace)

/-- No operation changes the parameters or the host's input sequence, and none but `RESET` takes an event out of the
trace (00_scope.md R7, 10_state.md R31, R36). The clauses on the schedule and the free-choice counter are about the
model's own fields (log 1), and that `RESET` keeps them, the parameters and the input is the model's choice (log 18).
The spec's own decisions among these: R7 (D3), R31 (D14), R36 (D2) (log 20). -/
def Obligations.ParametersAndTraceKept : Prop :=
  ∀ i s t, exec i s = .next t →
    t.params = s.params ∧ t.inBits = s.inBits ∧ t.inSource = s.inSource ∧ t.sched = s.sched ∧ t.tick = s.tick ∧
    (i ≠ .reset → s.trace <+: t.trace)

/-- A bounded machine does, in each enabled step, what the unbounded reference does: backpressure delays steps and
never changes what one computes (20_memory.md R63). The spec's own decisions among these: R63 (D3) (log 20). -/
def Obligations.BoundedStepIsReferenceStep : Prop :=
  ∀ s t a, enabled s a = true → exec a.toInstr s = .next t →
    enabled s.unbounded a = true ∧ exec a.toInstr s.unbounded = .next t.unbounded

/-! Invariants -/

/-- Every step keeps the data-model invariant (10_state.md R39). The spec's own inferences among these: R39 (log 20).
-/
def Obligations.StepKeepsDataModel : Prop :=
  ∀ s t, s.Inv → step s = .next t → t.Inv

/-- Every step keeps the window equal to the last 4800 bits accepted since reset, and the frames pushed equal to the
frames of those bits, whatever the schedule and the depths (40_frame_sync.md R124 to R130, 20_memory.md R63). The
spec's own decisions among these: R124 (D25), R63 (D3) and its inferences: R126, R128, R129, R130 (log 20). -/
def Obligations.StepFollowsBits : Prop :=
  ∀ s t, s.FollowsBits → step s = .next t → t.FollowsBits

/-- Every step keeps packets in the order of their frames, none lost and none made between the frame channel and the
packet channel (20_memory.md R57, 41_packetizer.md R147, 60_exceptions.md R283). The spec's own inferences among
these: R283 (log 20). -/
def Obligations.StepFollowsFrames : Prop :=
  ∀ s t, s.FollowsFrames → step s = .next t → t.FollowsFrames

/-- Every step keeps the records delivered and waiting equal to those pushed, in order (20_memory.md R57, R58, R64).
The spec's own decisions among these: R58 (D8) and its inferences: R64 (log 20). -/
def Obligations.StepFollowsRecords : Prop :=
  ∀ s t, s.FollowsRecords → step s = .next t → t.FollowsRecords

/-- Every step keeps this: the packets pushed, in the order pushed, are split among the records and drops of the
trace, then the trigger held, then the packets waiting in `PQ`; a record's part is the packet or the pair it is the
valid decoding of, a drop's part is the packets it names, and no other event has one (60_exceptions.md R283, R271,
42_checksum_dispatch.md R169, R171, R172). The spec's own decisions among these: R271 (D14), R171 (D24) and its
inferences: R283, R172 (log 20). -/
def Obligations.StepAccountsForPackets : Prop :=
  ∀ s t, s.AccountsPackets → step s = .next t → t.AccountsPackets

/-- Every step keeps every record pushed the decoding of a valid packet that was pushed, or of a valid pair of packets
pushed one right after the other (42_checksum_dispatch.md R169, R171, 20_memory.md R57). The spec's own decisions
among these: R171 (D24) (log 20). -/
def Obligations.StepKeepsRecordsSound : Prop :=
  ∀ s t, s.RecordsSound → step s = .next t → t.RecordsSound

/-! End of a run -/

/-- With legal depths, in every state that meets the invariant, a step of the block's agents or the sink is enabled
just when the state is not quiescent (60_exceptions.md R280, R281). The spec's own decisions among these: R280 (D21),
R281 (D21) and its inferences: R281 (log 20). -/
def Obligations.EnabledUntilQuiescent : Prop :=
  ∀ s : State, s.Inv → s.depthsLegal →
    (quiescent s = false ↔ ∃ a ∈ drainOrder, enabled s a = true)

/-- Every enabled step of the block's agents and the sink lowers the work left, but for the input of an unbounded
`IN`; so no run of such steps on a finite input goes on for ever (60_exceptions.md R281). The spec's own decisions
among these: R281 (D21) and its inferences: R281 (log 20). -/
def Obligations.EnabledStepLowersWork : Prop :=
  ∀ s t a, s.Inv → a ∈ drainOrder → (a = .synBit → s.inSource = none) → enabled s a = true →
    exec a.toInstr s = .next t → t.work < s.work

/-- From every state that meets the invariant, with legal depths and a finite input, `DRAIN` reaches a quiescent
state, and so does every weakly fair run without a `RESET`, whatever its order and its configuration accesses at
address 0 (60_exceptions.md R280, R281, 30_encoding.md R98). The order `DRAIN` takes its steps in is the model's
choice: log 19; that fairness is a premise on runs and no rule of a step: log 13. The spec's own decisions among
these: R280 (D21), R281 (D21), R98 (D23) and its inferences: R281 (log 20). -/
def Obligations.DrainAndFairRunsReachQuiescence : Prop :=
  (∀ s : State, s.Inv → s.depthsLegal → s.inSource = none → quiescent s.drain = true) ∧
  (∀ (states : Nat → State) (acts : Nat → Action), IsRun states acts → WeaklyFair states acts →
    (states 0).Inv → (states 0).depthsLegal → (states 0).inSource = none → (∀ n, acts n ≠ .reset) →
    ∃ n, quiescent (states n) = true)
end

