-- ==== Sys2Proof/Laws/State.lean ====
section
/-! SUPPORT. One lemma per field per update of the state, so that no proof unfolds a record update. -/

namespace Sys2Proof.Machine

variable (s : State)

@[simp] theorem State.setInPos_params (v : Nat) : (s.setInPos v).params = s.params := rfl
@[simp] theorem State.setInPos_inBits (v : Nat) : (s.setInPos v).inBits = s.inBits := rfl
@[simp] theorem State.setInPos_inSource (v : Nat) : (s.setInPos v).inSource = s.inSource := rfl
@[simp] theorem State.setInPos_inPos (v : Nat) : (s.setInPos v).inPos = v := rfl
@[simp] theorem State.setInPos_w (v : Nat) : (s.setInPos v).w = s.w := rfl
@[simp] theorem State.setInPos_fq (v : Nat) : (s.setInPos v).fq = s.fq := rfl
@[simp] theorem State.setInPos_pzRem (v : Nat) : (s.setInPos v).pzRem = s.pzRem := rfl
@[simp] theorem State.setInPos_pq (v : Nat) : (s.setInPos v).pq = s.pq := rfl
@[simp] theorem State.setInPos_dsp (v : Nat) : (s.setInPos v).dsp = s.dsp := rfl
@[simp] theorem State.setInPos_rq (v : Nat) : (s.setInPos v).rq = s.rq := rfl
@[simp] theorem State.setInPos_cfgEnable (v : Nat) : (s.setInPos v).cfgEnable = s.cfgEnable := rfl
@[simp] theorem State.setInPos_trace (v : Nat) : (s.setInPos v).trace = s.trace := rfl
@[simp] theorem State.setInPos_cfgData (v : Nat) : (s.setInPos v).cfgData = s.cfgData := rfl
@[simp] theorem State.setInPos_sched (v : Nat) : (s.setInPos v).sched = s.sched := rfl
@[simp] theorem State.setInPos_tick (v : Nat) : (s.setInPos v).tick = s.tick := rfl

@[simp] theorem State.setW_params (v : List Bool) : (s.setW v).params = s.params := rfl
@[simp] theorem State.setW_inBits (v : List Bool) : (s.setW v).inBits = s.inBits := rfl
@[simp] theorem State.setW_inSource (v : List Bool) : (s.setW v).inSource = s.inSource := rfl
@[simp] theorem State.setW_inPos (v : List Bool) : (s.setW v).inPos = s.inPos := rfl
@[simp] theorem State.setW_w (v : List Bool) : (s.setW v).w = v := rfl
@[simp] theorem State.setW_fq (v : List Bool) : (s.setW v).fq = s.fq := rfl
@[simp] theorem State.setW_pzRem (v : List Bool) : (s.setW v).pzRem = s.pzRem := rfl
@[simp] theorem State.setW_pq (v : List Bool) : (s.setW v).pq = s.pq := rfl
@[simp] theorem State.setW_dsp (v : List Bool) : (s.setW v).dsp = s.dsp := rfl
@[simp] theorem State.setW_rq (v : List Bool) : (s.setW v).rq = s.rq := rfl
@[simp] theorem State.setW_cfgEnable (v : List Bool) : (s.setW v).cfgEnable = s.cfgEnable := rfl
@[simp] theorem State.setW_trace (v : List Bool) : (s.setW v).trace = s.trace := rfl
@[simp] theorem State.setW_cfgData (v : List Bool) : (s.setW v).cfgData = s.cfgData := rfl
@[simp] theorem State.setW_sched (v : List Bool) : (s.setW v).sched = s.sched := rfl
@[simp] theorem State.setW_tick (v : List Bool) : (s.setW v).tick = s.tick := rfl

@[simp] theorem State.setFq_params (v : List Frame) : (s.setFq v).params = s.params := rfl
@[simp] theorem State.setFq_inBits (v : List Frame) : (s.setFq v).inBits = s.inBits := rfl
@[simp] theorem State.setFq_inSource (v : List Frame) : (s.setFq v).inSource = s.inSource := rfl
@[simp] theorem State.setFq_inPos (v : List Frame) : (s.setFq v).inPos = s.inPos := rfl
@[simp] theorem State.setFq_w (v : List Frame) : (s.setFq v).w = s.w := rfl
@[simp] theorem State.setFq_fq (v : List Frame) : (s.setFq v).fq = v := rfl
@[simp] theorem State.setFq_pzRem (v : List Frame) : (s.setFq v).pzRem = s.pzRem := rfl
@[simp] theorem State.setFq_pq (v : List Frame) : (s.setFq v).pq = s.pq := rfl
@[simp] theorem State.setFq_dsp (v : List Frame) : (s.setFq v).dsp = s.dsp := rfl
@[simp] theorem State.setFq_rq (v : List Frame) : (s.setFq v).rq = s.rq := rfl
@[simp] theorem State.setFq_cfgEnable (v : List Frame) : (s.setFq v).cfgEnable = s.cfgEnable := rfl
@[simp] theorem State.setFq_trace (v : List Frame) : (s.setFq v).trace = s.trace := rfl
@[simp] theorem State.setFq_cfgData (v : List Frame) : (s.setFq v).cfgData = s.cfgData := rfl
@[simp] theorem State.setFq_sched (v : List Frame) : (s.setFq v).sched = s.sched := rfl
@[simp] theorem State.setFq_tick (v : List Frame) : (s.setFq v).tick = s.tick := rfl

@[simp] theorem State.setPzRem_params (v : Option (List Packet)) : (s.setPzRem v).params = s.params := rfl
@[simp] theorem State.setPzRem_inBits (v : Option (List Packet)) : (s.setPzRem v).inBits = s.inBits := rfl
@[simp] theorem State.setPzRem_inSource (v : Option (List Packet)) : (s.setPzRem v).inSource = s.inSource := rfl
@[simp] theorem State.setPzRem_inPos (v : Option (List Packet)) : (s.setPzRem v).inPos = s.inPos := rfl
@[simp] theorem State.setPzRem_w (v : Option (List Packet)) : (s.setPzRem v).w = s.w := rfl
@[simp] theorem State.setPzRem_fq (v : Option (List Packet)) : (s.setPzRem v).fq = s.fq := rfl
@[simp] theorem State.setPzRem_pzRem (v : Option (List Packet)) : (s.setPzRem v).pzRem = v := rfl
@[simp] theorem State.setPzRem_pq (v : Option (List Packet)) : (s.setPzRem v).pq = s.pq := rfl
@[simp] theorem State.setPzRem_dsp (v : Option (List Packet)) : (s.setPzRem v).dsp = s.dsp := rfl
@[simp] theorem State.setPzRem_rq (v : Option (List Packet)) : (s.setPzRem v).rq = s.rq := rfl
@[simp] theorem State.setPzRem_cfgEnable (v : Option (List Packet)) : (s.setPzRem v).cfgEnable = s.cfgEnable := rfl
@[simp] theorem State.setPzRem_trace (v : Option (List Packet)) : (s.setPzRem v).trace = s.trace := rfl
@[simp] theorem State.setPzRem_cfgData (v : Option (List Packet)) : (s.setPzRem v).cfgData = s.cfgData := rfl
@[simp] theorem State.setPzRem_sched (v : Option (List Packet)) : (s.setPzRem v).sched = s.sched := rfl
@[simp] theorem State.setPzRem_tick (v : Option (List Packet)) : (s.setPzRem v).tick = s.tick := rfl

@[simp] theorem State.setPq_params (v : List Packet) : (s.setPq v).params = s.params := rfl
@[simp] theorem State.setPq_inBits (v : List Packet) : (s.setPq v).inBits = s.inBits := rfl
@[simp] theorem State.setPq_inSource (v : List Packet) : (s.setPq v).inSource = s.inSource := rfl
@[simp] theorem State.setPq_inPos (v : List Packet) : (s.setPq v).inPos = s.inPos := rfl
@[simp] theorem State.setPq_w (v : List Packet) : (s.setPq v).w = s.w := rfl
@[simp] theorem State.setPq_fq (v : List Packet) : (s.setPq v).fq = s.fq := rfl
@[simp] theorem State.setPq_pzRem (v : List Packet) : (s.setPq v).pzRem = s.pzRem := rfl
@[simp] theorem State.setPq_pq (v : List Packet) : (s.setPq v).pq = v := rfl
@[simp] theorem State.setPq_dsp (v : List Packet) : (s.setPq v).dsp = s.dsp := rfl
@[simp] theorem State.setPq_rq (v : List Packet) : (s.setPq v).rq = s.rq := rfl
@[simp] theorem State.setPq_cfgEnable (v : List Packet) : (s.setPq v).cfgEnable = s.cfgEnable := rfl
@[simp] theorem State.setPq_trace (v : List Packet) : (s.setPq v).trace = s.trace := rfl
@[simp] theorem State.setPq_cfgData (v : List Packet) : (s.setPq v).cfgData = s.cfgData := rfl
@[simp] theorem State.setPq_sched (v : List Packet) : (s.setPq v).sched = s.sched := rfl
@[simp] theorem State.setPq_tick (v : List Packet) : (s.setPq v).tick = s.tick := rfl

@[simp] theorem State.setDsp_params (v : Dsp) : (s.setDsp v).params = s.params := rfl
@[simp] theorem State.setDsp_inBits (v : Dsp) : (s.setDsp v).inBits = s.inBits := rfl
@[simp] theorem State.setDsp_inSource (v : Dsp) : (s.setDsp v).inSource = s.inSource := rfl
@[simp] theorem State.setDsp_inPos (v : Dsp) : (s.setDsp v).inPos = s.inPos := rfl
@[simp] theorem State.setDsp_w (v : Dsp) : (s.setDsp v).w = s.w := rfl
@[simp] theorem State.setDsp_fq (v : Dsp) : (s.setDsp v).fq = s.fq := rfl
@[simp] theorem State.setDsp_pzRem (v : Dsp) : (s.setDsp v).pzRem = s.pzRem := rfl
@[simp] theorem State.setDsp_pq (v : Dsp) : (s.setDsp v).pq = s.pq := rfl
@[simp] theorem State.setDsp_dsp (v : Dsp) : (s.setDsp v).dsp = v := rfl
@[simp] theorem State.setDsp_rq (v : Dsp) : (s.setDsp v).rq = s.rq := rfl
@[simp] theorem State.setDsp_cfgEnable (v : Dsp) : (s.setDsp v).cfgEnable = s.cfgEnable := rfl
@[simp] theorem State.setDsp_trace (v : Dsp) : (s.setDsp v).trace = s.trace := rfl
@[simp] theorem State.setDsp_cfgData (v : Dsp) : (s.setDsp v).cfgData = s.cfgData := rfl
@[simp] theorem State.setDsp_sched (v : Dsp) : (s.setDsp v).sched = s.sched := rfl
@[simp] theorem State.setDsp_tick (v : Dsp) : (s.setDsp v).tick = s.tick := rfl

@[simp] theorem State.setRq_params (v : List Record) : (s.setRq v).params = s.params := rfl
@[simp] theorem State.setRq_inBits (v : List Record) : (s.setRq v).inBits = s.inBits := rfl
@[simp] theorem State.setRq_inSource (v : List Record) : (s.setRq v).inSource = s.inSource := rfl
@[simp] theorem State.setRq_inPos (v : List Record) : (s.setRq v).inPos = s.inPos := rfl
@[simp] theorem State.setRq_w (v : List Record) : (s.setRq v).w = s.w := rfl
@[simp] theorem State.setRq_fq (v : List Record) : (s.setRq v).fq = s.fq := rfl
@[simp] theorem State.setRq_pzRem (v : List Record) : (s.setRq v).pzRem = s.pzRem := rfl
@[simp] theorem State.setRq_pq (v : List Record) : (s.setRq v).pq = s.pq := rfl
@[simp] theorem State.setRq_dsp (v : List Record) : (s.setRq v).dsp = s.dsp := rfl
@[simp] theorem State.setRq_rq (v : List Record) : (s.setRq v).rq = v := rfl
@[simp] theorem State.setRq_cfgEnable (v : List Record) : (s.setRq v).cfgEnable = s.cfgEnable := rfl
@[simp] theorem State.setRq_trace (v : List Record) : (s.setRq v).trace = s.trace := rfl
@[simp] theorem State.setRq_cfgData (v : List Record) : (s.setRq v).cfgData = s.cfgData := rfl
@[simp] theorem State.setRq_sched (v : List Record) : (s.setRq v).sched = s.sched := rfl
@[simp] theorem State.setRq_tick (v : List Record) : (s.setRq v).tick = s.tick := rfl

@[simp] theorem State.setCfgEnable_params (v : Byte) : (s.setCfgEnable v).params = s.params := rfl
@[simp] theorem State.setCfgEnable_inBits (v : Byte) : (s.setCfgEnable v).inBits = s.inBits := rfl
@[simp] theorem State.setCfgEnable_inSource (v : Byte) : (s.setCfgEnable v).inSource = s.inSource := rfl
@[simp] theorem State.setCfgEnable_inPos (v : Byte) : (s.setCfgEnable v).inPos = s.inPos := rfl
@[simp] theorem State.setCfgEnable_w (v : Byte) : (s.setCfgEnable v).w = s.w := rfl
@[simp] theorem State.setCfgEnable_fq (v : Byte) : (s.setCfgEnable v).fq = s.fq := rfl
@[simp] theorem State.setCfgEnable_pzRem (v : Byte) : (s.setCfgEnable v).pzRem = s.pzRem := rfl
@[simp] theorem State.setCfgEnable_pq (v : Byte) : (s.setCfgEnable v).pq = s.pq := rfl
@[simp] theorem State.setCfgEnable_dsp (v : Byte) : (s.setCfgEnable v).dsp = s.dsp := rfl
@[simp] theorem State.setCfgEnable_rq (v : Byte) : (s.setCfgEnable v).rq = s.rq := rfl
@[simp] theorem State.setCfgEnable_cfgEnable (v : Byte) : (s.setCfgEnable v).cfgEnable = v := rfl
@[simp] theorem State.setCfgEnable_trace (v : Byte) : (s.setCfgEnable v).trace = s.trace := rfl
@[simp] theorem State.setCfgEnable_cfgData (v : Byte) : (s.setCfgEnable v).cfgData = s.cfgData := rfl
@[simp] theorem State.setCfgEnable_sched (v : Byte) : (s.setCfgEnable v).sched = s.sched := rfl
@[simp] theorem State.setCfgEnable_tick (v : Byte) : (s.setCfgEnable v).tick = s.tick := rfl

@[simp] theorem State.setCfgData_params (v : Option Byte) : (s.setCfgData v).params = s.params := rfl
@[simp] theorem State.setCfgData_inBits (v : Option Byte) : (s.setCfgData v).inBits = s.inBits := rfl
@[simp] theorem State.setCfgData_inSource (v : Option Byte) : (s.setCfgData v).inSource = s.inSource := rfl
@[simp] theorem State.setCfgData_inPos (v : Option Byte) : (s.setCfgData v).inPos = s.inPos := rfl
@[simp] theorem State.setCfgData_w (v : Option Byte) : (s.setCfgData v).w = s.w := rfl
@[simp] theorem State.setCfgData_fq (v : Option Byte) : (s.setCfgData v).fq = s.fq := rfl
@[simp] theorem State.setCfgData_pzRem (v : Option Byte) : (s.setCfgData v).pzRem = s.pzRem := rfl
@[simp] theorem State.setCfgData_pq (v : Option Byte) : (s.setCfgData v).pq = s.pq := rfl
@[simp] theorem State.setCfgData_dsp (v : Option Byte) : (s.setCfgData v).dsp = s.dsp := rfl
@[simp] theorem State.setCfgData_rq (v : Option Byte) : (s.setCfgData v).rq = s.rq := rfl
@[simp] theorem State.setCfgData_cfgEnable (v : Option Byte) : (s.setCfgData v).cfgEnable = s.cfgEnable := rfl
@[simp] theorem State.setCfgData_trace (v : Option Byte) : (s.setCfgData v).trace = s.trace := rfl
@[simp] theorem State.setCfgData_cfgData (v : Option Byte) : (s.setCfgData v).cfgData = v := rfl
@[simp] theorem State.setCfgData_sched (v : Option Byte) : (s.setCfgData v).sched = s.sched := rfl
@[simp] theorem State.setCfgData_tick (v : Option Byte) : (s.setCfgData v).tick = s.tick := rfl

@[simp] theorem State.log_params (v : Event) : (s.log v).params = s.params := rfl
@[simp] theorem State.log_inBits (v : Event) : (s.log v).inBits = s.inBits := rfl
@[simp] theorem State.log_inSource (v : Event) : (s.log v).inSource = s.inSource := rfl
@[simp] theorem State.log_inPos (v : Event) : (s.log v).inPos = s.inPos := rfl
@[simp] theorem State.log_w (v : Event) : (s.log v).w = s.w := rfl
@[simp] theorem State.log_fq (v : Event) : (s.log v).fq = s.fq := rfl
@[simp] theorem State.log_pzRem (v : Event) : (s.log v).pzRem = s.pzRem := rfl
@[simp] theorem State.log_pq (v : Event) : (s.log v).pq = s.pq := rfl
@[simp] theorem State.log_dsp (v : Event) : (s.log v).dsp = s.dsp := rfl
@[simp] theorem State.log_rq (v : Event) : (s.log v).rq = s.rq := rfl
@[simp] theorem State.log_cfgEnable (v : Event) : (s.log v).cfgEnable = s.cfgEnable := rfl
@[simp] theorem State.log_trace (v : Event) : (s.log v).trace = s.trace ++ [v] := rfl
@[simp] theorem State.log_cfgData (v : Event) : (s.log v).cfgData = s.cfgData := rfl
@[simp] theorem State.log_sched (v : Event) : (s.log v).sched = s.sched := rfl
@[simp] theorem State.log_tick (v : Event) : (s.log v).tick = s.tick := rfl

@[simp] theorem State.pushFrame_params (v : Frame) : (s.pushFrame v).params = s.params := rfl
@[simp] theorem State.pushFrame_inBits (v : Frame) : (s.pushFrame v).inBits = s.inBits := rfl
@[simp] theorem State.pushFrame_inSource (v : Frame) : (s.pushFrame v).inSource = s.inSource := rfl
@[simp] theorem State.pushFrame_inPos (v : Frame) : (s.pushFrame v).inPos = s.inPos := rfl
@[simp] theorem State.pushFrame_w (v : Frame) : (s.pushFrame v).w = s.w := rfl
@[simp] theorem State.pushFrame_fq (v : Frame) : (s.pushFrame v).fq = s.fq ++ [v] := rfl
@[simp] theorem State.pushFrame_pzRem (v : Frame) : (s.pushFrame v).pzRem = s.pzRem := rfl
@[simp] theorem State.pushFrame_pq (v : Frame) : (s.pushFrame v).pq = s.pq := rfl
@[simp] theorem State.pushFrame_dsp (v : Frame) : (s.pushFrame v).dsp = s.dsp := rfl
@[simp] theorem State.pushFrame_rq (v : Frame) : (s.pushFrame v).rq = s.rq := rfl
@[simp] theorem State.pushFrame_cfgEnable (v : Frame) : (s.pushFrame v).cfgEnable = s.cfgEnable := rfl
@[simp] theorem State.pushFrame_trace (v : Frame) : (s.pushFrame v).trace = s.trace ++ [.frame v] := rfl
@[simp] theorem State.pushFrame_cfgData (v : Frame) : (s.pushFrame v).cfgData = s.cfgData := rfl
@[simp] theorem State.pushFrame_sched (v : Frame) : (s.pushFrame v).sched = s.sched := rfl
@[simp] theorem State.pushFrame_tick (v : Frame) : (s.pushFrame v).tick = s.tick := rfl

@[simp] theorem State.pushPacket_params (v : Packet) : (s.pushPacket v).params = s.params := rfl
@[simp] theorem State.pushPacket_inBits (v : Packet) : (s.pushPacket v).inBits = s.inBits := rfl
@[simp] theorem State.pushPacket_inSource (v : Packet) : (s.pushPacket v).inSource = s.inSource := rfl
@[simp] theorem State.pushPacket_inPos (v : Packet) : (s.pushPacket v).inPos = s.inPos := rfl
@[simp] theorem State.pushPacket_w (v : Packet) : (s.pushPacket v).w = s.w := rfl
@[simp] theorem State.pushPacket_fq (v : Packet) : (s.pushPacket v).fq = s.fq := rfl
@[simp] theorem State.pushPacket_pzRem (v : Packet) : (s.pushPacket v).pzRem = s.pzRem := rfl
@[simp] theorem State.pushPacket_pq (v : Packet) : (s.pushPacket v).pq = s.pq ++ [v] := rfl
@[simp] theorem State.pushPacket_dsp (v : Packet) : (s.pushPacket v).dsp = s.dsp := rfl
@[simp] theorem State.pushPacket_rq (v : Packet) : (s.pushPacket v).rq = s.rq := rfl
@[simp] theorem State.pushPacket_cfgEnable (v : Packet) : (s.pushPacket v).cfgEnable = s.cfgEnable := rfl
@[simp] theorem State.pushPacket_trace (v : Packet) : (s.pushPacket v).trace = s.trace ++ [.packet v] := rfl
@[simp] theorem State.pushPacket_cfgData (v : Packet) : (s.pushPacket v).cfgData = s.cfgData := rfl
@[simp] theorem State.pushPacket_sched (v : Packet) : (s.pushPacket v).sched = s.sched := rfl
@[simp] theorem State.pushPacket_tick (v : Packet) : (s.pushPacket v).tick = s.tick := rfl

@[simp] theorem State.emit_params (v : Record) : (s.emit v).params = s.params := rfl
@[simp] theorem State.emit_inBits (v : Record) : (s.emit v).inBits = s.inBits := rfl
@[simp] theorem State.emit_inSource (v : Record) : (s.emit v).inSource = s.inSource := rfl
@[simp] theorem State.emit_inPos (v : Record) : (s.emit v).inPos = s.inPos := rfl
@[simp] theorem State.emit_w (v : Record) : (s.emit v).w = s.w := rfl
@[simp] theorem State.emit_fq (v : Record) : (s.emit v).fq = s.fq := rfl
@[simp] theorem State.emit_pzRem (v : Record) : (s.emit v).pzRem = s.pzRem := rfl
@[simp] theorem State.emit_pq (v : Record) : (s.emit v).pq = s.pq := rfl
@[simp] theorem State.emit_dsp (v : Record) : (s.emit v).dsp = s.dsp := rfl
@[simp] theorem State.emit_rq (v : Record) : (s.emit v).rq = s.rq ++ [v] := rfl
@[simp] theorem State.emit_cfgEnable (v : Record) : (s.emit v).cfgEnable = s.cfgEnable := rfl
@[simp] theorem State.emit_trace (v : Record) : (s.emit v).trace = s.trace ++ [.record v] := rfl
@[simp] theorem State.emit_cfgData (v : Record) : (s.emit v).cfgData = s.cfgData := rfl
@[simp] theorem State.emit_sched (v : Record) : (s.emit v).sched = s.sched := rfl
@[simp] theorem State.emit_tick (v : Record) : (s.emit v).tick = s.tick := rfl

@[simp] theorem State.raise_params (v : Drop) : (s.raise v).params = s.params := rfl
@[simp] theorem State.raise_inBits (v : Drop) : (s.raise v).inBits = s.inBits := rfl
@[simp] theorem State.raise_inSource (v : Drop) : (s.raise v).inSource = s.inSource := rfl
@[simp] theorem State.raise_inPos (v : Drop) : (s.raise v).inPos = s.inPos := rfl
@[simp] theorem State.raise_w (v : Drop) : (s.raise v).w = s.w := rfl
@[simp] theorem State.raise_fq (v : Drop) : (s.raise v).fq = s.fq := rfl
@[simp] theorem State.raise_pzRem (v : Drop) : (s.raise v).pzRem = s.pzRem := rfl
@[simp] theorem State.raise_pq (v : Drop) : (s.raise v).pq = s.pq := rfl
@[simp] theorem State.raise_dsp (v : Drop) : (s.raise v).dsp = s.dsp := rfl
@[simp] theorem State.raise_rq (v : Drop) : (s.raise v).rq = s.rq := rfl
@[simp] theorem State.raise_cfgEnable (v : Drop) : (s.raise v).cfgEnable = s.cfgEnable := rfl
@[simp] theorem State.raise_trace (v : Drop) : (s.raise v).trace = s.trace ++ [.drop v] := rfl
@[simp] theorem State.raise_cfgData (v : Drop) : (s.raise v).cfgData = s.cfgData := rfl
@[simp] theorem State.raise_sched (v : Drop) : (s.raise v).sched = s.sched := rfl
@[simp] theorem State.raise_tick (v : Drop) : (s.raise v).tick = s.tick := rfl

@[simp] theorem State.scheduleFirst_params (a : Action) : (s.scheduleFirst a).params = s.params := rfl
@[simp] theorem State.scheduleFirst_inBits (a : Action) : (s.scheduleFirst a).inBits = s.inBits := rfl
@[simp] theorem State.scheduleFirst_inSource (a : Action) : (s.scheduleFirst a).inSource = s.inSource := rfl
@[simp] theorem State.scheduleFirst_inPos (a : Action) : (s.scheduleFirst a).inPos = s.inPos := rfl
@[simp] theorem State.scheduleFirst_w (a : Action) : (s.scheduleFirst a).w = s.w := rfl
@[simp] theorem State.scheduleFirst_fq (a : Action) : (s.scheduleFirst a).fq = s.fq := rfl
@[simp] theorem State.scheduleFirst_pzRem (a : Action) : (s.scheduleFirst a).pzRem = s.pzRem := rfl
@[simp] theorem State.scheduleFirst_pq (a : Action) : (s.scheduleFirst a).pq = s.pq := rfl
@[simp] theorem State.scheduleFirst_dsp (a : Action) : (s.scheduleFirst a).dsp = s.dsp := rfl
@[simp] theorem State.scheduleFirst_rq (a : Action) : (s.scheduleFirst a).rq = s.rq := rfl
@[simp] theorem State.scheduleFirst_cfgEnable (a : Action) : (s.scheduleFirst a).cfgEnable = s.cfgEnable := rfl
@[simp] theorem State.scheduleFirst_trace (a : Action) : (s.scheduleFirst a).trace = s.trace := rfl
@[simp] theorem State.scheduleFirst_cfgData (a : Action) : (s.scheduleFirst a).cfgData = s.cfgData := rfl
@[simp] theorem State.scheduleFirst_sched (a : Action) : (s.scheduleFirst a).sched = a :: s.sched := rfl
@[simp] theorem State.scheduleFirst_tick (a : Action) : (s.scheduleFirst a).tick = s.tick := rfl

end Sys2Proof.Machine
end

