-- ==== Sys2Proof/Laws/Ops.lean ====
section
/-! SUPPORT. For each shared operation, once, everything it can do; and the small laws of channels, windows, bit values
and checksums that claims about many operations share. -/

namespace Sys2Proof.Machine

/-- Everything the handling of a packet with a single-packet decoder can do (42_checksum_dispatch.md R168). -/
theorem handleSingle_cases {t : PacketType} {dec : Packet → Record} {p : Packet} {s u : State}
    (h : handleSingle t dec p s = .next u) :
    (s.rqFull = true ∧ u = s) ∨
    (s.rqFull = false ∧ typeEnabled s.cfgEnable t = true ∧ fletcher p.bytes = 0 ∧ u = s.emit (dec p)) ∨
    (s.rqFull = false ∧ typeEnabled s.cfgEnable t = true ∧ fletcher p.bytes ≠ 0 ∧
      u = s.raise (.checksumFailure p none)) ∨
    (s.rqFull = false ∧ typeEnabled s.cfgEnable t = false ∧ u = s.raise (.unknownOrDisabled p)) := by
  unfold handleSingle waits at h
  split at h
  · next hf => cases h; exact .inl ⟨hf, rfl⟩
  · next hf =>
    have hf' := Bool.eq_false_iff.mpr hf
    split at h
    · next he =>
      split at h
      · next hc => cases h; exact .inr (.inl ⟨hf', he, hc, rfl⟩)
      · next hc => cases h; exact .inr (.inr (.inl ⟨hf', he, hc, rfl⟩))
    · next he => cases h; exact .inr (.inr (.inr ⟨hf', Bool.eq_false_iff.mpr he, rfl⟩))

/-- Everything a discard can do (42_checksum_dispatch.md R166, R167). -/
theorem discardPacket_cases {p : Packet} {s u : State} (h : discardPacket p s = .next u) :
    (s.rqFull = true ∧ u = s) ∨ (s.rqFull = false ∧ u = s.raise (.unknownOrDisabled p)) := by
  unfold discardPacket waits at h
  split at h
  · next hf => cases h; exact .inl ⟨hf, rfl⟩
  · next hf => cases h; exact .inr ⟨Bool.eq_false_iff.mpr hf, rfl⟩

/-- Everything the handling of an ephemeris pair can do (42_checksum_dispatch.md R171). -/
theorem execDecEph_cases {a b : Packet} {s u : State} (h : execDecEph a b s = .next u) :
    (s.rqFull = true ∧ u = s) ∨
    (s.rqFull = false ∧ fletcher (a.bytes ++ b.bytes) = 0 ∧ u = s.emit (decEph s.params.ephLayout a b)) ∨
    (s.rqFull = false ∧ fletcher (a.bytes ++ b.bytes) ≠ 0 ∧ u = s.raise (.checksumFailure a (some b))) := by
  unfold execDecEph waits at h
  split at h
  · next hf => cases h; exact .inl ⟨hf, rfl⟩
  · next hf =>
    have hf' := Bool.eq_false_iff.mpr hf
    split at h
    · next hc => cases h; exact .inr (.inl ⟨hf', hc, rfl⟩)
    · next hc => cases h; exact .inr (.inr ⟨hf', hc, rfl⟩)

/-- Everything holding a trigger can do (42_checksum_dispatch.md R168, R170). -/
theorem holdTrigger_cases {a : Packet} {s u : State} (h : holdTrigger a s = .next u) :
    (typeEnabled s.cfgEnable .ephemeris = true ∧ (s.params.ephTriggerPrecheck = true ∧ fletcher a.bytes ≠ 0) ∧
      u = s.raise (.checksumFailure a none)) ∨
    (typeEnabled s.cfgEnable .ephemeris = true ∧ ¬(s.params.ephTriggerPrecheck = true ∧ fletcher a.bytes ≠ 0) ∧
      u = s.setDsp (.ephPending a)) ∨
    (typeEnabled s.cfgEnable .ephemeris = false ∧ u = s.raise (.unknownOrDisabled a)) := by
  unfold holdTrigger at h
  split at h
  · next he =>
    split at h
    · next hc => cases h; exact .inl ⟨he, hc, rfl⟩
    · next hc => cases h; exact .inr (.inl ⟨he, hc, rfl⟩)
  · next he => cases h; exact .inr (.inr ⟨Bool.eq_false_iff.mpr he, rfl⟩)

/-- Everything the window match can do (40_frame_sync.md R124, R125). -/
theorem execSyncMatch_cases {s u : State} (h : execSyncMatch s = .next u) :
    (s.fqFull = false ∧ windowMatches s.w = true ∧ u = s.pushFrame s.w) ∨
    ((s.fqFull = true ∨ windowMatches s.w = false) ∧ u = s) := by
  unfold execSyncMatch waits at h
  split at h
  · next hf => cases h; exact .inr ⟨.inl hf, rfl⟩
  · next hf =>
    split at h
    · next hm => cases h; exact .inl ⟨Bool.eq_false_iff.mpr hf, hm, rfl⟩
    · next hm => cases h; exact .inr ⟨.inr (Bool.eq_false_iff.mpr hm), rfl⟩

/-- The input port offers a bit just when it is valid (10_state.md R36). -/
theorem State.inBit_isSome (s : State) : s.inBit.isSome = s.inValid := by
  unfold State.inBit State.inValid
  rcases Nat.lt_or_ge s.inPos s.inBits.length with h | h
  · rw [List.getElem?_eq_getElem h]; simp [h]
  · rw [List.getElem?_eq_none h]; cases s.inSource <;> simp [h]

theorem State.inBit_eq_none {s : State} : s.inBit = none ↔ s.inValid = false := by
  rw [← s.inBit_isSome, Option.isSome_eq_false_iff, Option.isNone_iff_eq_none]

/-- The bit offered is the listed one at the position, or behind the listed bits one of the source's (10_state.md R36). -/
theorem State.inBit_eq_some {s : State} {b : Bool} : s.inBit = some b ↔
    s.inBits[s.inPos]? = some b ∨
    (s.inBits.length ≤ s.inPos ∧ ∃ k, s.inSource = some k ∧ b = Config.sourceBit k s.inPos) := by
  unfold State.inBit
  rcases Nat.lt_or_ge s.inPos s.inBits.length with h | h
  · rw [List.getElem?_eq_getElem h]; simp [Nat.not_le.mpr h]
  · rw [List.getElem?_eq_none h]; cases s.inSource <;> simp [h, eq_comm]

/-- A port slot list has exactly its number of slots (30_encoding.md R93, R94). -/
@[simp] theorem portSlots_length (n : Nat) (chans : List Chan) : (portSlots n chans).length = n := by
  simp [portSlots]; omega

/-- A full channel holds at least its depth; one that is not full has room for one more (00_scope.md R11). -/
theorem fullAt_eq_true {depth : Option Nat} {len : Nat} :
    fullAt depth len = true ↔ ∃ d, depth = some d ∧ d ≤ len := by
  cases depth <;> simp [fullAt]

theorem fullAt_eq_false {depth : Option Nat} {len : Nat} :
    fullAt depth len = false ↔ ∀ d, depth = some d → len < d := by
  cases depth <;> simp [fullAt]

/-- What is left to push, as a list, whichever way `pz_rem` holds it (41_packetizer.md R145). -/
@[simp] theorem remOf_getD (ps : List Packet) : (remOf ps).getD [] = ps := by
  cases ps <;> rfl

theorem remOf_ne_some_nil (ps : List Packet) : remOf ps ≠ some [] := by
  cases ps <;> simp [remOf]

/-- The length of the window after one more bit (10_state.md R23). -/
theorem slideWindow_length (w : List Bool) (b : Bool) :
    (slideWindow w b).length = if w.length = windowCap then windowCap else w.length + 1 := by
  unfold slideWindow
  split
  · next h => simp [h, windowCap]
  · simp

@[simp] theorem Packet.bytes_length (p : Packet) : p.bytes.length = 12 := rfl

/-- Packets with the same bytes are the same. -/
theorem Packet.bytes_injective {p q : Packet} (h : p.bytes = q.bytes) : p = q := by
  cases p; cases q; simpa [Packet.bytes] using h

/-- The packet at the head of its own bytes. -/
@[simp] theorem takePacket_bytes (p : Packet) (l : List Byte) : takePacket (p.bytes ++ l) = some (p, l) := rfl

@[simp] theorem takePacket_bytes_nil (p : Packet) : takePacket p.bytes = some (p, []) := rfl

/-- The bits of a value are worth less than two to their number (41_packetizer.md R141). -/
theorem bitsVal_lt (l : List Bool) : bitsVal l < 2 ^ l.length := by
  induction l with
  | nil => simp [bitsVal]
  | cons b l ih => cases b <;> simp [bitsVal, pow_succ] <;> omega

/-- A field is worth less than two to its width (20_memory.md R54). -/
theorem field_lt (bs : List Byte) (o w : Nat) : field bs o w < 2 ^ w := by
  simpa [field] using bitsVal_lt ((List.range w).map fun k => bitAt bs (o + k))

/-- The nibbles of a byte are below 16 (00_scope.md R9). -/
theorem hi4_lt (x : Byte) : hi4 x < 16 := by
  unfold hi4 bitSlice; exact Nat.mod_lt _ (by decide)

theorem lo4_lt (x : Byte) : lo4 x < 16 := by
  unfold lo4 bitSlice; exact Nat.mod_lt _ (by decide)

/-- A little-endian value is below 256 to its number of bytes (00_scope.md R10). -/
theorem le_lt (l : List Byte) : le l < 256 ^ l.length := by
  induction l with
  | nil => simp [le]
  | cons b l ih =>
    have := b.isLt
    simp only [le, List.length_cons, pow_succ]
    omega

/-- The Fletcher sums of bytes appended go on from the sums before them (42_checksum_dispatch.md R162). -/
theorem fletcherSums_append (a b : List Byte) :
    fletcherSums (a ++ b) = b.foldl fletcherByte (fletcherSums a) := by
  simp [fletcherSums, List.foldl_append]

/-- A checksum is zero just when both sums are (42_checksum_dispatch.md R161). -/
theorem fletcher_eq_zero {bs : List Byte} : fletcher bs = 0 ↔ fletcherSums bs = (0, 0) := by
  simp [fletcher, Prod.ext_iff]

end Sys2Proof.Machine
end

