-- ==== Sys2Proof/Laws/Effect.lean ====
section
/-! SUPPORT. Once, everything an agent or host step can do: an inductive listing of the next states, and the inversion
lemma for `exec` on scheduled steps and for `step`. Every invariant of the machine is a case analysis over it. -/

namespace Sys2Proof.Machine

/-- What each agent or host step leads to (10_state.md R20). -/
inductive Effect (s : State) : Action → State → Prop
  /-- The step is not enabled. -/
  | waited (a : Action) (hn : enabled s a = false) : Effect s a s
  /-- `SYN_BIT` without a match (40_frame_sync.md R124). -/
  | accepted (b : Bool) (hb : s.inBit = some b) (hf : s.fqFull = false)
      (hm : windowMatches (slideWindow s.w b) = false) : Effect s .synBit (acceptBit b s)
  /-- `SYN_BIT` with a match. -/
  | framed (b : Bool) (hb : s.inBit = some b) (hf : s.fqFull = false)
      (hm : windowMatches (slideWindow s.w b) = true) :
      Effect s .synBit ((acceptBit b s).pushFrame (slideWindow s.w b))
  /-- `PKZ_LOAD` (41_packetizer.md R145). -/
  | loaded (f : Frame) (rest : List Frame) (hp : s.pzRem = none) (hq : s.fq = f :: rest) :
      Effect s .pkzLoad ((noteIncomplete f (s.setFq rest)).setPzRem (remOf (packets f)))
  /-- `PKZ_EMIT` (41_packetizer.md R146). -/
  | packeted (p : Packet) (rest : List Packet) (hp : s.pzRem = some (p :: rest)) (hf : s.pqFull = false) :
      Effect s .pkzEmit ((s.pushPacket p).setPzRem (remOf rest))
  /-- `DSP_POP` that drops the packet (42_checksum_dispatch.md R168). -/
  | popDropped (a : Packet) (rest : List Packet) (d : Drop) (hd : s.dsp = .idle) (hq : s.pq = a :: rest)
      (hr : s.rqFull = false) (hc : d = .unknownOrDisabled a ∨ d = .checksumFailure a none) :
      Effect s .dspPop ((s.setPq rest).raise d)
  /-- `DSP_POP` that decodes the packet. -/
  | popDecoded (a : Packet) (rest : List Packet) (ty : PacketType) (r : Record) (hd : s.dsp = .idle)
      (hq : s.pq = a :: rest) (hr : s.rqFull = false) (ht : typeOfTag a.b0 = some ty)
      (hc : fletcher a.bytes = 0) (hs : singleRecord ty a = some r) :
      Effect s .dspPop ((s.setPq rest).emit r)
  /-- `DSP_POP` that holds an ephemeris trigger. -/
  | popHeld (a : Packet) (rest : List Packet) (hd : s.dsp = .idle) (hq : s.pq = a :: rest)
      (hr : s.rqFull = false) (ht : typeOfTag a.b0 = some .ephemeris) :
      Effect s .dspPop ((s.setPq rest).setDsp (.ephPending a))
  /-- `DSP_EPH` with `PQ` empty (42_checksum_dispatch.md R171). -/
  | ephAbandoned (a : Packet) (hd : s.dsp = .ephPending a) (hq : s.pq = []) (hr : s.rqFull = false) :
      Effect s .dspEph ((s.setDsp .idle).raise (.reassemblyUnavailable a))
  /-- `DSP_EPH` that decodes the pair. -/
  | ephDecoded (a b : Packet) (rest : List Packet) (hd : s.dsp = .ephPending a) (hq : s.pq = b :: rest)
      (hr : s.rqFull = false) (hc : fletcher (a.bytes ++ b.bytes) = 0) :
      Effect s .dspEph (((s.setDsp .idle).setPq rest).emit (decEph s.params.ephLayout a b))
  /-- `DSP_EPH` that drops the pair. -/
  | ephDropped (a b : Packet) (rest : List Packet) (hd : s.dsp = .ephPending a) (hq : s.pq = b :: rest)
      (hr : s.rqFull = false) (hc : fletcher (a.bytes ++ b.bytes) ≠ 0) :
      Effect s .dspEph (((s.setDsp .idle).setPq rest).raise (.checksumFailure a (some b)))
  /-- `CFG_WRITE` (10_state.md R28). -/
  | configured (v : Byte) : Effect s (.cfgWrite 0 v) (s.setCfgEnable v)
  /-- `CFG_READ` (10_state.md R28). -/
  | configRead : Effect s (.cfgRead 0) (s.setCfgData (some s.cfgEnable))
  /-- `RESET` (70_reset_and_hazards.md R300). -/
  | wasReset : Effect s .reset { s with
      w := [], fq := [], pzRem := none, pq := [], dsp := .idle, rq := [],
      cfgEnable := s.params.enableReset, trace := [] }
  /-- `SNK_TAKE` (20_memory.md R58). -/
  | took (r : Record) (rest : List Record) (hq : s.rq = r :: rest) : Effect s .snkTake ((s.setRq rest).log (.delivered r))

theorem execSynBit_effect {s t : State} (h : execSynBit s = .next t) : Effect s .synBit t := by
  unfold execSynBit waits at h
  split at h
  · next hb => cases h; exact .waited _ (by simp [enabled, State.inBit_eq_none.mp hb])
  · next b hb =>
    split at h
    · next hf => cases h; exact .waited _ (by simp [enabled, hf])
    · next hf =>
      have hf' : s.fqFull = false := Bool.eq_false_iff.mpr hf
      rcases execSyncMatch_cases h with ⟨_, hm, rfl⟩ | ⟨hm, rfl⟩
      · exact .framed b hb hf' hm
      · refine .accepted b hb hf' (hm.resolve_left ?_)
        exact fun hc => absurd hc (Bool.eq_false_iff.mp hf')

theorem execPkzLoad_effect {s t : State} (h : execPkzLoad s = .next t) : Effect s .pkzLoad t := by
  unfold execPkzLoad waits at h
  split at h
  · next f rest hp hq => cases h; exact .loaded f rest hp hq
  · next hn =>
    cases h
    refine .waited _ ?_
    cases hp : s.pzRem <;> cases hq : s.fq <;> simp_all [enabled]

theorem execPkzEmit_effect {s t : State} (h : execPkzEmit s = .next t) : Effect s .pkzEmit t := by
  unfold execPkzEmit waits at h
  split at h
  · next p rest hp =>
    split at h
    · next hf => cases h; exact .waited _ (by simp [enabled, hp, hf])
    · next hf => cases h; exact .packeted p rest hp (Bool.eq_false_iff.mpr hf)
  · next hn =>
    cases h
    refine .waited _ ?_
    simp only [enabled]

/-- A packet of a single-packet type, popped with room in `RQ`. -/
theorem handleSingle_effect {s t : State} {a : Packet} {rest : List Packet} {ty : PacketType} {dec : Packet → Record}
    (hd : s.dsp = .idle) (hq : s.pq = a :: rest) (hr : s.rqFull = false) (ht : typeOfTag a.b0 = some ty)
    (hs : singleRecord ty a = some (dec a)) (h : handleSingle ty dec a (s.setPq rest) = .next t) :
    Effect s .dspPop t := by
  rcases handleSingle_cases h with ⟨hf, _⟩ | ⟨_, _, hc, rfl⟩ | ⟨_, _, _, rfl⟩ | ⟨_, _, rfl⟩
  · exact absurd hf (Bool.eq_false_iff.mp hr)
  · exact .popDecoded a rest ty _ hd hq hr ht hc hs
  · exact .popDropped a rest _ hd hq hr (.inr rfl)
  · exact .popDropped a rest _ hd hq hr (.inl rfl)

/-- A packet without a decoder, popped with room in `RQ`. -/
theorem discardPacket_effect {s t : State} {a : Packet} {rest : List Packet} (hd : s.dsp = .idle)
    (hq : s.pq = a :: rest) (hr : s.rqFull = false) (h : discardPacket a (s.setPq rest) = .next t) :
    Effect s .dspPop t := by
  rcases discardPacket_cases h with ⟨hf, _⟩ | ⟨_, rfl⟩
  · exact absurd hf (Bool.eq_false_iff.mp hr)
  · exact .popDropped a rest _ hd hq hr (.inl rfl)

theorem dispatchPacket_effect {s t : State} {a : Packet} {rest : List Packet} (hd : s.dsp = .idle)
    (hq : s.pq = a :: rest) (hr : s.rqFull = false) (h : dispatchPacket a (s.setPq rest) = .next t) :
    Effect s .dspPop t := by
  unfold dispatchPacket at h
  split at h
  · next ht => exact handleSingle_effect hd hq hr ht rfl h
  · next ht => exact handleSingle_effect hd hq hr ht rfl h
  · next ht => exact handleSingle_effect hd hq hr ht rfl h
  · next ht => exact handleSingle_effect hd hq hr ht rfl h
  · exact discardPacket_effect hd hq hr h
  · exact discardPacket_effect hd hq hr h
  · next ht =>
    rcases holdTrigger_cases h with ⟨_, _, rfl⟩ | ⟨_, _, rfl⟩ | ⟨_, rfl⟩
    · exact .popDropped a rest _ hd hq hr (.inr rfl)
    · exact .popHeld a rest hd hq hr ht
    · exact .popDropped a rest _ hd hq hr (.inl rfl)
  · next ht => exact handleSingle_effect hd hq hr ht rfl h
  · exact discardPacket_effect hd hq hr h

theorem execDspPop_effect {s t : State} (h : execDspPop s = .next t) : Effect s .dspPop t := by
  unfold execDspPop waits at h
  split at h
  · next a rest hd hq =>
    split at h
    · next hr => cases h; exact .waited _ (by simp [enabled, hr])
    · next hr => exact dispatchPacket_effect hd hq (Bool.eq_false_iff.mpr hr) h
  · next hn =>
    cases h
    refine .waited _ ?_
    cases hd : s.dsp <;> cases hq : s.pq <;> simp_all [enabled]

theorem execDspEph_effect {s t : State} (h : execDspEph s = .next t) : Effect s .dspEph t := by
  unfold execDspEph waits at h
  split at h
  · next hd => cases h; exact .waited _ (by simp [enabled, hd])
  · next a hd =>
    split at h
    · next hr => cases h; exact .waited _ (by simp [enabled, hd, hr])
    · next hr =>
      have hr' : s.rqFull = false := Bool.eq_false_iff.mpr hr
      split at h
      · next hq => cases h; exact .ephAbandoned a hd hq hr'
      · next b rest hq =>
        rcases execDecEph_cases h with ⟨hf, _⟩ | ⟨_, hc, rfl⟩ | ⟨_, hc, rfl⟩
        · exact absurd hf hr
        · exact .ephDecoded a b rest hd hq hr' hc
        · exact .ephDropped a b rest hd hq hr' hc

theorem execSnkTake_effect {s t : State} (h : execSnkTake s = .next t) : Effect s .snkTake t := by
  unfold execSnkTake waits at h
  split at h
  · next r rest hq => cases h; exact .took r rest hq
  · next hq => cases h; exact .waited _ (by simp [enabled, hq])

/-- Everything a scheduled step can do, if it answers a next state. -/
theorem exec_effect {a : Action} {s t : State} (h : exec a.toInstr s = .next t) : Effect s a t := by
  cases a with
  | synBit => exact execSynBit_effect h
  | pkzLoad => exact execPkzLoad_effect h
  | pkzEmit => exact execPkzEmit_effect h
  | dspPop => exact execDspPop_effect h
  | dspEph => exact execDspEph_effect h
  | cfgWrite addr v =>
    simp only [Action.toInstr, exec, execCfgWrite] at h
    split at h
    · next ha => cases h; subst ha; exact .configured v
    · cases h
  | cfgRead addr =>
    simp only [Action.toInstr, exec, execCfgRead] at h
    split at h
    · next ha => cases h; subst ha; exact .configRead
    · cases h
  | reset => cases h; exact .wasReset
  | snkTake => exact execSnkTake_effect h

/-- What a state holds of the block and the host's ports, whatever the schedule. -/
def State.SameBlock (s t : State) : Prop :=
  t = { s with sched := t.sched, tick := t.tick }

/-- A step is a scheduled step in a state that differs only in schedule and counter. -/
theorem step_effect {s t : State} (h : step s = .next t) : ∃ a u, s.SameBlock u ∧ Effect u a t := by
  refine ⟨s.nextAction.1, s.nextAction.2, ?_, exec_effect h⟩
  unfold State.nextAction State.SameBlock
  split <;> rfl

end Sys2Proof.Machine
end

