-- ==== Sys2Proof/Laws/PerInstr.lean ====
section
/-! SUPPORT. Statements made once per constructor of `Instr`: how long an operation's words are (30_encoding.md R72, R74,
R77). -/

namespace Sys2Proof.Laws.EncodedLength

/-- The number of bits of an operation's words: 192 for an ephemeris pair, 24 for the window match, 96 for every other
packet, none for an agent or host step. -/
def bitsOfInstr : Instr → Nat
  | .decEph _ _ => 192
  | .syncMatch => 24
  | .synBit => 0
  | .pkzLoad => 0
  | .pkzEmit => 0
  | .dspPop => 0
  | .dspEph => 0
  | .cfgWrite _ _ => 0
  | .cfgRead _ => 0
  | .reset => 0
  | .snkTake => 0
  | .decSync _ => 96
  | .decMsg _ => 96
  | .decUpl _ => 96
  | .decDnl _ => 96
  | .discNc _ => 96
  | .discFill _ => 96
  | .decEle _ => 96
  | .discUnk _ => 96

/-- The number of bits of words. -/
def bitsOfWords : Words → Nat
  | .bytes l => 8 * l.length
  | .window l => l.length

/-- An operation has words just when it has bits, and they have that many. -/
def Statement (i : Instr) : Prop :=
  ((encode i).map bitsOfWords).getD 0 = bitsOfInstr i ∧ ((encode i).isSome ↔ bitsOfInstr i ≠ 0)

theorem decSync (p : Packet) : Statement (.decSync p) := by simp [Statement, encode, bitsOfInstr, bitsOfWords, Packet.bytes]

theorem decMsg (p : Packet) : Statement (.decMsg p) := by simp [Statement, encode, bitsOfInstr, bitsOfWords, Packet.bytes]

theorem decUpl (p : Packet) : Statement (.decUpl p) := by simp [Statement, encode, bitsOfInstr, bitsOfWords, Packet.bytes]

theorem decDnl (p : Packet) : Statement (.decDnl p) := by simp [Statement, encode, bitsOfInstr, bitsOfWords, Packet.bytes]

theorem discNc (p : Packet) : Statement (.discNc p) := by simp [Statement, encode, bitsOfInstr, bitsOfWords, Packet.bytes]

theorem discFill (p : Packet) : Statement (.discFill p) := by simp [Statement, encode, bitsOfInstr, bitsOfWords, Packet.bytes]

theorem decEle (p : Packet) : Statement (.decEle p) := by simp [Statement, encode, bitsOfInstr, bitsOfWords, Packet.bytes]

theorem discUnk (p : Packet) : Statement (.discUnk p) := by simp [Statement, encode, bitsOfInstr, bitsOfWords, Packet.bytes]

theorem decEph (a b : Packet) : Statement (.decEph a b) := by
  simp [Statement, encode, bitsOfInstr, bitsOfWords, Packet.bytes]

theorem syncMatch : Statement .syncMatch := by simp [Statement, encode, bitsOfInstr, bitsOfWords, syncWord]

theorem cfgWrite (addr : Nat) (v : Byte) : Statement (.cfgWrite addr v) := by simp [Statement, encode, bitsOfInstr]

theorem cfgRead (addr : Nat) : Statement (.cfgRead addr) := by simp [Statement, encode, bitsOfInstr]

theorem synBit : Statement .synBit := by simp [Statement, encode, bitsOfInstr]

theorem pkzLoad : Statement .pkzLoad := by simp [Statement, encode, bitsOfInstr]

theorem pkzEmit : Statement .pkzEmit := by simp [Statement, encode, bitsOfInstr]

theorem dspPop : Statement .dspPop := by simp [Statement, encode, bitsOfInstr]

theorem dspEph : Statement .dspEph := by simp [Statement, encode, bitsOfInstr]

theorem reset : Statement .reset := by simp [Statement, encode, bitsOfInstr]

theorem snkTake : Statement .snkTake := by simp [Statement, encode, bitsOfInstr]

end Sys2Proof.Laws.EncodedLength
end

