-- ==== Sys2Proof/Laws/Trace.lean ====
section
/-! SUPPORT. What the trace says after one more event (10_state.md R31), the reference window and frames after one more bit,
and the frame of a failure's note in `PKZ_LOAD`. -/

namespace Sys2Proof.Machine

@[simp] theorem bitsOf_nil : bitsOf [] = [] := rfl

@[simp] theorem bitsOf_append (t u : List Event) : bitsOf (t ++ u) = bitsOf t ++ bitsOf u := List.filterMap_append

@[simp] theorem bitsOf_cons_bit (b : Bool) (t : List Event) : bitsOf (.bit b :: t) = b :: bitsOf t := rfl
@[simp] theorem bitsOf_cons_frame (f : Frame) (t : List Event) : bitsOf (.frame f :: t) = bitsOf t := rfl
@[simp] theorem bitsOf_cons_packet (p : Packet) (t : List Event) : bitsOf (.packet p :: t) = bitsOf t := rfl
@[simp] theorem bitsOf_cons_drop (d : Drop) (t : List Event) : bitsOf (.drop d :: t) = bitsOf t := rfl
@[simp] theorem bitsOf_cons_record (r : Record) (t : List Event) : bitsOf (.record r :: t) = bitsOf t := rfl
@[simp] theorem bitsOf_cons_delivered (r : Record) (t : List Event) : bitsOf (.delivered r :: t) = bitsOf t := rfl

@[simp] theorem framesOf_nil : framesOf [] = [] := rfl

@[simp] theorem framesOf_append (t u : List Event) : framesOf (t ++ u) = framesOf t ++ framesOf u := List.filterMap_append

@[simp] theorem framesOf_cons_bit (b : Bool) (t : List Event) : framesOf (.bit b :: t) = framesOf t := rfl
@[simp] theorem framesOf_cons_frame (f : Frame) (t : List Event) : framesOf (.frame f :: t) = f :: framesOf t := rfl
@[simp] theorem framesOf_cons_packet (p : Packet) (t : List Event) : framesOf (.packet p :: t) = framesOf t := rfl
@[simp] theorem framesOf_cons_drop (d : Drop) (t : List Event) : framesOf (.drop d :: t) = framesOf t := rfl
@[simp] theorem framesOf_cons_record (r : Record) (t : List Event) : framesOf (.record r :: t) = framesOf t := rfl
@[simp] theorem framesOf_cons_delivered (r : Record) (t : List Event) : framesOf (.delivered r :: t) = framesOf t := rfl

@[simp] theorem packetsOf_nil : packetsOf [] = [] := rfl

@[simp] theorem packetsOf_append (t u : List Event) : packetsOf (t ++ u) = packetsOf t ++ packetsOf u := List.filterMap_append

@[simp] theorem packetsOf_cons_bit (b : Bool) (t : List Event) : packetsOf (.bit b :: t) = packetsOf t := rfl
@[simp] theorem packetsOf_cons_frame (f : Frame) (t : List Event) : packetsOf (.frame f :: t) = packetsOf t := rfl
@[simp] theorem packetsOf_cons_packet (p : Packet) (t : List Event) : packetsOf (.packet p :: t) = p :: packetsOf t := rfl
@[simp] theorem packetsOf_cons_drop (d : Drop) (t : List Event) : packetsOf (.drop d :: t) = packetsOf t := rfl
@[simp] theorem packetsOf_cons_record (r : Record) (t : List Event) : packetsOf (.record r :: t) = packetsOf t := rfl
@[simp] theorem packetsOf_cons_delivered (r : Record) (t : List Event) : packetsOf (.delivered r :: t) = packetsOf t := rfl

@[simp] theorem recordsOf_nil : recordsOf [] = [] := rfl

@[simp] theorem recordsOf_append (t u : List Event) : recordsOf (t ++ u) = recordsOf t ++ recordsOf u := List.filterMap_append

@[simp] theorem recordsOf_cons_bit (b : Bool) (t : List Event) : recordsOf (.bit b :: t) = recordsOf t := rfl
@[simp] theorem recordsOf_cons_frame (f : Frame) (t : List Event) : recordsOf (.frame f :: t) = recordsOf t := rfl
@[simp] theorem recordsOf_cons_packet (p : Packet) (t : List Event) : recordsOf (.packet p :: t) = recordsOf t := rfl
@[simp] theorem recordsOf_cons_drop (d : Drop) (t : List Event) : recordsOf (.drop d :: t) = recordsOf t := rfl
@[simp] theorem recordsOf_cons_record (r : Record) (t : List Event) : recordsOf (.record r :: t) = r :: recordsOf t := rfl
@[simp] theorem recordsOf_cons_delivered (r : Record) (t : List Event) : recordsOf (.delivered r :: t) = recordsOf t := rfl

@[simp] theorem deliveredOf_nil : deliveredOf [] = [] := rfl

@[simp] theorem deliveredOf_append (t u : List Event) : deliveredOf (t ++ u) = deliveredOf t ++ deliveredOf u := List.filterMap_append

@[simp] theorem deliveredOf_cons_bit (b : Bool) (t : List Event) : deliveredOf (.bit b :: t) = deliveredOf t := rfl
@[simp] theorem deliveredOf_cons_frame (f : Frame) (t : List Event) : deliveredOf (.frame f :: t) = deliveredOf t := rfl
@[simp] theorem deliveredOf_cons_packet (p : Packet) (t : List Event) : deliveredOf (.packet p :: t) = deliveredOf t := rfl
@[simp] theorem deliveredOf_cons_drop (d : Drop) (t : List Event) : deliveredOf (.drop d :: t) = deliveredOf t := rfl
@[simp] theorem deliveredOf_cons_record (r : Record) (t : List Event) : deliveredOf (.record r :: t) = deliveredOf t := rfl
@[simp] theorem deliveredOf_cons_delivered (r : Record) (t : List Event) : deliveredOf (.delivered r :: t) = r :: deliveredOf t := rfl

/-- Appending one bit to a stream slides the window after it (40_frame_sync.md R124). -/
theorem windowAfter_append (bits : List Bool) (b : Bool) :
    windowAfter (bits ++ [b]) = slideWindow (windowAfter bits) b := by
  unfold windowAfter slideWindow
  rw [List.length_append, List.length_singleton]
  have hc : 0 < windowCap := by decide
  generalize windowCap = c at *
  by_cases h : c ≤ bits.length
  · have hl : (bits.drop (bits.length - c)).length = c := by rw [List.length_drop]; omega
    rw [if_pos hl, List.drop_drop, List.drop_append_of_le_length (by omega)]
    congr 2
    omega
  · have e : bits.length - c = 0 := by omega
    have e' : bits.length + 1 - c = 0 := by omega
    rw [e, e', List.drop_zero, List.drop_zero, if_neg (by omega)]

/-- Appending one bit to a stream appends at most one frame to its frames (40_frame_sync.md R127). -/
theorem framesOfBits_append (bits : List Bool) (b : Bool) :
    framesOfBits (bits ++ [b]) = framesOfBits bits ++
      (if windowMatches (slideWindow (windowAfter bits) b) then [slideWindow (windowAfter bits) b] else []) := by
  unfold framesOfBits
  rw [List.length_append, List.length_singleton, List.range_succ, List.filterMap_append]
  have hlast : frameAt (bits ++ [b]) bits.length =
      if windowMatches (slideWindow (windowAfter bits) b) then some (slideWindow (windowAfter bits) b) else none := by
    unfold frameAt
    rw [List.take_of_length_le (by rw [List.length_append, List.length_singleton]), windowAfter_append]
  have hrest : (List.range bits.length).filterMap (frameAt (bits ++ [b])) =
      (List.range bits.length).filterMap (frameAt bits) := by
    apply List.filterMap_congr
    intro n hn
    have := List.mem_range.mp hn
    unfold frameAt
    rw [List.take_append_of_le_length (by omega)]
  rw [hrest, List.filterMap_cons, hlast, List.filterMap_nil]
  cases windowMatches (slideWindow (windowAfter bits) b) <;> rfl

/-- The note of an incomplete frame adds one drop to the trace or nothing, and touches nothing else
(41_packetizer.md R145). -/
theorem noteIncomplete_cases (f : Frame) (s : State) :
    (∃ b c, noteIncomplete f s = s.raise (.incompleteFrameData b c)) ∨ noteIncomplete f s = s := by
  unfold noteIncomplete
  split
  · exact .inl ⟨_, _, rfl⟩
  · exact .inr rfl

end Sys2Proof.Machine
end

