-- ==== Sys2Proof/Tests/Slice0.lean ====
section
/-! SUPPORT. Tests of the model against words and results written out in the spec (95_test_vectors.md, 30_encoding.md), and
for every statement with hypotheses a witness that they can be met together. -/

namespace Sys2Proof.Tests

open Sys2Proof Sys2Proof.Machine

/-! Packets of 95_test_vectors.md -/

def packetQ1 : Packet := ⟨0x65, 0xA8, 0xF9, 0x2A, 0, 0, 0xF0, 0, 0, 0, 0x58, 0x88⟩
def packetQ2 : Packet := ⟨0x65, 0xA8, 0xF9, 0x07, 0, 0, 0x30, 0, 0, 0, 0x30, 0x93⟩
def packetQ3 : Packet := ⟨0x65, 0, 0, 0xFF, 0xFF, 0xFF, 0x0F, 0xFF, 0xFF, 0xFF, 0x7C, 0x16⟩
def packetM1 : Packet := ⟨0x1A, 0x30, 1, 2, 3, 4, 5, 6, 7, 8, 0x66, 0x2C⟩
def packetM2 : Packet := ⟨0x1A, 0x0F, 0x48, 0x45, 0x4C, 0x4C, 0x4F, 0, 0, 0, 0x35, 0x2E⟩
def packetU1 : Packet := ⟨0x1B, 0x21, 0x77, 0, 0, 0, 0, 0, 0x10, 0, 0x2E, 0x0F⟩
def packetU3 : Packet := ⟨0x1B, 0x21, 0x77, 0xFF, 0x3F, 0x00, 0x02, 0x10, 0x00, 0xAB, 0x0D, 0x45⟩
def packetN1 : Packet := ⟨0x1C, 0x99, 0x50, 0, 0, 0, 0, 0, 0, 0, 0x02, 0xF9⟩
def packetN3 : Packet := ⟨0x1C, 0x99, 0x00, 0x10, 0x05, 0x40, 0x11, 0x14, 0x4F, 0x00, 0x1D, 0x65⟩
def packetL4 : Packet := ⟨0x22, 0, 0, 0x56, 0x34, 0x12, 0xF0, 0xDE, 0xBC, 0x9A, 0x72, 0xAC⟩
def packetL1 : Packet := ⟨0x22, 0, 0, 0xFF, 0xFF, 0xFF, 0xFF, 0xFF, 0xFF, 0xFF, 0xAD, 0x38⟩
def packetNc : Packet := ⟨0x1D, 0, 0, 0, 0, 0, 0, 0, 0, 0, 0xC1, 0x22⟩
def packetFill : Packet := ⟨0x1E, 0, 0, 0, 0, 0, 0, 0, 0, 0, 0xB6, 0x2C⟩
def packetZero : Packet := ⟨0, 0, 0, 0, 0, 0, 0, 0, 0, 0, 0, 0⟩
/-- The invalid Downlink packet of D5v. -/
def packetBad : Packet := ⟨0x1C, 0, 0x50, 0, 0, 0, 0, 0, 0, 0, 0, 0⟩
/-- The trigger and the follower of H4. -/
def triggerH4 : Packet := ⟨0x1F, 0x05, 0xD2, 0xAA, 0x0E, 0x00, 0x80, 0xE0, 0x93, 0x04, 0x00, 0x80⟩
def followerH4 : Packet := ⟨0x40, 0x42, 0x0F, 0xA8, 0x61, 0x00, 0x46, 0x05, 0x98, 0x08, 0xDC, 0x7A⟩

/-! States -/

/-- A packet waits for an idle dispatcher, which is to step. -/
def popOf (p : Packet) : State := { State.reset with pq := [p], sched := [.dspPop] }

/-- A trigger is held with these packets behind it, and the dispatcher is to step. -/
def ephOf (a : Packet) (q : List Packet) : State :=
  { State.reset with dsp := .ephPending a, pq := q, sched := [.dspEph] }

/-- The window, one bit offered, and the synchronizer to step. -/
def bitOf (w : List Bool) (b : Bool) : State :=
  { State.reset with w := w, inBits := [b], sched := [.synBit] }

/-- A frame waits for an idle packetizer, which is to step. -/
def loadOf (f : Frame) : State := { State.reset with fq := [f], sched := [.pkzLoad] }

/-- The same state under an enable word. -/
def withEnable (s : State) (v : Byte) : State := { s with cfgEnable := v }

/-- The same state with the trigger pre-check asked for. -/
def withPrecheck (s : State) : State := { s with params := { s.params with ephTriggerPrecheck := true } }

/-- The same state with every channel one deep. -/
def withDepths (s : State) : State :=
  { s with params := { s.params with frameDepth := some 1, packetDepth := some 1, recordDepth := some 1 } }

/-- The events of the state an outcome answers. -/
def eventsOf (o : Result) : Option (List Event) := (nextOf o).map State.trace

/-! Well-formedness: an ill-formed term for each check (30_encoding.md R75, R76) -/

theorem test_ill_formed_terms :
    (Instr.decSync packetM1).wellFormed = false ∧ (Instr.decMsg packetQ1).wellFormed = false ∧
    (Instr.decUpl packetN1).wellFormed = false ∧ (Instr.decDnl packetU1).wellFormed = false ∧
    (Instr.discNc packetFill).wellFormed = false ∧ (Instr.discFill packetNc).wellFormed = false ∧
    (Instr.decEph followerH4 triggerH4).wellFormed = false ∧ (Instr.decEle packetZero).wellFormed = false ∧
    (Instr.discUnk packetL4).wellFormed = false := by decide

theorem test_well_formed_terms :
    (Instr.decSync packetQ1).wellFormed = true ∧ (Instr.decMsg packetM1).wellFormed = true ∧
    (Instr.decUpl packetU1).wellFormed = true ∧ (Instr.decDnl packetN1).wellFormed = true ∧
    (Instr.discNc packetNc).wellFormed = true ∧ (Instr.discFill packetFill).wellFormed = true ∧
    (Instr.decEph triggerH4 followerH4).wellFormed = true ∧ (Instr.decEle packetL4).wellFormed = true ∧
    (Instr.discUnk packetZero).wellFormed = true := by decide

/-! Decoding: words written out from 30_encoding.md R72, R75 and the vectors -/

theorem test_decode_sync : decode (.bytes [0x65, 0xA8, 0xF9, 0x2A, 0, 0, 0xF0, 0, 0, 0, 0x58, 0x88]) =
    .ok (.decSync packetQ1) := rfl

theorem test_decode_msg : decode (.bytes [0x1A, 0x0F, 0x48, 0x45, 0x4C, 0x4C, 0x4F, 0, 0, 0, 0x35, 0x2E]) =
    .ok (.decMsg packetM2) := rfl

theorem test_decode_upl : decode (.bytes [0x1B, 0x21, 0x77, 0, 0, 0, 0, 0, 0x10, 0, 0x2E, 0x0F]) =
    .ok (.decUpl packetU1) := rfl

theorem test_decode_dnl : decode (.bytes [0x1C, 0x99, 0x50, 0, 0, 0, 0, 0, 0, 0, 0x02, 0xF9]) =
    .ok (.decDnl packetN1) := rfl

theorem test_decode_nc : decode (.bytes [0x1D, 0, 0, 0, 0, 0, 0, 0, 0, 0, 0xC1, 0x22]) =
    .ok (.discNc packetNc) := rfl

theorem test_decode_fill : decode (.bytes [0x1E, 0, 0, 0, 0, 0, 0, 0, 0, 0, 0xB6, 0x2C]) =
    .ok (.discFill packetFill) := rfl

theorem test_decode_eph : decode (.bytes
    [0x1F, 0x05, 0xD2, 0xAA, 0x0E, 0x00, 0x80, 0xE0, 0x93, 0x04, 0x00, 0x80,
     0x40, 0x42, 0x0F, 0xA8, 0x61, 0x00, 0x46, 0x05, 0x98, 0x08, 0xDC, 0x7A]) =
    .ok (.decEph triggerH4 followerH4) := rfl

theorem test_decode_ele : decode (.bytes [0x22, 0, 0, 0x56, 0x34, 0x12, 0xF0, 0xDE, 0xBC, 0x9A, 0x72, 0xAC]) =
    .ok (.decEle packetL4) := rfl

theorem test_decode_unknown : decode (.bytes [0x42, 0, 0, 0, 0, 0, 0, 0, 0, 0, 0, 0]) =
    .ok (.discUnk { packetZero with b0 := 0x42 }) := rfl

/-- `101001100001010110011111` is the sync word (R72), and with bit 23 flipped it is none (vector Y9). -/
theorem test_decode_window :
    decode (.window [true, false, true, false, false, true, true, false, false, false, false, true,
      false, true, false, true, true, false, false, true, true, true, true, true]) = .ok .syncMatch ∧
    decode (.window [true, false, true, false, false, true, true, false, false, false, false, true,
      false, true, false, true, true, false, false, true, true, true, true, false]) = .error .noSyncWord :=
  ⟨rfl, rfl⟩

theorem test_decode_refuses :
    decode (.bytes (List.replicate 11 0)) = .error (.shortPacket 11) ∧
    decode (.bytes triggerH4.bytes) = .error .followerMissing ∧
    decode (.bytes (packetQ1.bytes ++ [0])) = .error (.trailingBytes 1) ∧
    decode (.window (List.replicate 23 true)) = .error (.shortWindow 23) := ⟨rfl, rfl, rfl, rfl⟩

theorem test_table_words :
    decodeTableWord 8 0x65 = some (.decSync { packetZero with b0 := 0x65 }) ∧
    decodeTableWord 8 0x1F = some (.decEph { packetZero with b0 := 0x1F } packetZero) ∧
    decodeTableWord 24 0xA6159F = some .syncMatch ∧ decodeTableWord 24 0 = none := by decide

/-- A placed packet, pair and window are what the very next step runs. -/
theorem test_step_runs_placed_word :
    eventsOf (step (State.reset.withFetchWord 8 0x65)) =
      some [.drop (.checksumFailure { packetZero with b0 := 0x65 } none)] ∧
    eventsOf (step (State.reset.withFetchWord 8 0x1F)) =
      some [.drop (.checksumFailure { packetZero with b0 := 0x1F } (some packetZero))] ∧
    eventsOf (step (State.reset.withFetchWord 24 0xA6159F)) = some [.bit true, .frame syncWord] := by decide

/-! Frame synchronizer and packetizer -/

/-- The 24th bit of the sync word pushes the frame (vectors Y2, S3). -/
theorem test_synBit_matches :
    (nextOf (exec .synBit (bitOf (syncWord.take 23) true))).map State.fq = some [syncWord] := by decide

/-- No frame with 23 bits, whatever they are (vector Y1). -/
theorem test_synBit_short_window :
    (nextOf (exec .synBit (bitOf (syncWord.take 22) true))).map State.fq = some [] := by decide

theorem test_syncMatch_pushes :
    (nextOf (exec .syncMatch { State.reset with w := syncWord ++ [false] })).map State.fq =
      some [syncWord ++ [false]] := by decide

/-- Byte assembly (95_test_vectors.md section 2.2). -/
theorem test_byteAt :
    byteAt syncWord 0 = 0x65 ∧ byteAt syncWord 1 = 0xA8 ∧ byteAt syncWord 2 = 0xF9 ∧
    byteAt [true, false, false, false, false, false, false, false] 0 = 0x01 ∧
    byteAt [false, false, false, false, false, false, false, true] 0 = 0x80 := by decide

/-- Vectors Z1 and Z4. -/
theorem test_pkzLoad_notes_incomplete :
    eventsOf (exec .pkzLoad (loadOf syncWord)) = some [.drop (.incompleteFrameData 0 3)] ∧
    eventsOf (exec .pkzLoad (loadOf (syncWord ++ List.replicate 76 false))) =
      some [.drop (.incompleteFrameData 4 0)] := by decide

/-- Property S4: the 96 bits of M1 reassemble to M1. -/
theorem test_pkzLoad_packets :
    (nextOf (exec .pkzLoad (loadOf (packetBits packetM1)))).map State.pzRem = some (some [packetM1]) := by decide

theorem test_pkzEmit_pushes :
    (nextOf (exec .pkzEmit { State.reset with pzRem := some [packetM1] })).map
      (fun t => (t.pq, t.pzRem, t.trace)) = some ([packetM1], none, [.packet packetM1]) := by decide

/-! Checksum: vectors F2, F3, F4, F6, F7, F8 and check bytes -/

theorem test_fletcher :
    fletcher [1, 0, 0, 0, 0, 0, 0, 0, 0, 0, 0, 0] = 13 ∧ fletcher (List.replicate 12 0xFF) = 422 ∧
    fletcher [0, 1, 2, 3, 4, 5, 6, 7, 8, 9, 10, 11] = 96 ∧
    fletcher [0x65, 0xA8, 0xF9, 0x87, 0, 0x80, 0x30, 0, 0, 0, 0x30, 0x93] = 0 ∧
    fletcher [0x65, 0xA8, 0xF9, 0x06, 0, 0, 0x30, 0, 0, 0, 0x30, 0x93] = 502 ∧
    fletcher [0x65, 0xA8, 0xF9, 0x07, 0, 0, 0x30, 0, 0, 0, 0x93, 0x30] = 99 := by decide

theorem test_checkBytes :
    checkBytes [0x65, 0xA8, 0xF9, 0x2A, 0, 0, 0xF0, 0, 0, 0] = [0x58, 0x88] ∧
    checkBytes [0x1E, 0, 0, 0, 0, 0, 0, 0, 0, 0] = [0xB6, 0x2C] ∧
    checkBytes (List.replicate 10 0) = [0, 0] := by decide

/-! Dispatcher: the D vectors -/

/-- D1v, D2v, D3v, D4v. -/
theorem test_dspPop_routes :
    eventsOf (exec .dspPop (popOf packetQ2)) = some [.record (.sync ⟨7, 3⟩)] ∧
    eventsOf (exec .dspPop (withEnable (popOf packetQ2) 0xFE)) = some [.drop (.unknownOrDisabled packetQ2)] ∧
    eventsOf (exec .dspPop (popOf packetNc)) = some [.drop (.unknownOrDisabled packetNc)] ∧
    eventsOf (exec .dspPop (popOf packetZero)) = some [.drop (.unknownOrDisabled packetZero)] := by decide

/-- D5v, D6v, D8v, D9v, D10v. -/
theorem test_dspPop_checksum :
    eventsOf (exec .dspPop (popOf packetBad)) = some [.drop (.checksumFailure packetBad none)] ∧
    eventsOf (exec .dspPop (withEnable (popOf packetBad) 0xF7)) = some [.drop (.unknownOrDisabled packetBad)] ∧
    (nextOf (exec .dspPop (popOf triggerH4))).map (fun t => (t.dsp, t.trace)) = some (.ephPending triggerH4, []) ∧
    eventsOf (exec .dspPop (withPrecheck (popOf triggerH4))) = some [.drop (.checksumFailure triggerH4 none)] ∧
    eventsOf (exec .dspPop (withEnable (popOf triggerH4) 0xBF)) = some [.drop (.unknownOrDisabled triggerH4)] := by
  decide

/-- The record of vector H4. -/
def recordH4 : Record := .eph {
  scId := 5
  gpsWeek := 2200
  gpsSeconds := 345600
  gpsTime := 1330905600
  raw := ⟨961234, 524288, 300000, 524288, 1000000, 400000⟩
  pos := ⟨7321602629260, 0, -3758239257280⟩
  vel := ⟨0, 7325964800, -1914035200⟩
  radius := 8229837627544
  height := 1541862613144
  speed := 7571874998 }

/-- D11v, D12v. -/
theorem test_dspEph_lookahead :
    (nextOf (exec .dspEph (ephOf triggerH4 [followerH4]))).map (fun t => (t.dsp, t.pq, t.rq)) =
      some (.idle, [], [recordH4]) ∧
    eventsOf (exec .dspEph (ephOf triggerH4 [])) = some [.drop (.reassemblyUnavailable triggerH4)] := by decide

/-- D13v: a valid Synchronization packet behind a trigger is consumed. -/
theorem test_dspEph_eats_follower :
    fletcher (triggerH4.bytes ++ packetQ2.bytes) = 98 ∧
    (nextOf (exec .dspEph (ephOf triggerH4 [packetQ2]))).map (fun t => (t.pq, t.rq, t.trace)) =
      some ([], [], [.drop (.checksumFailure triggerH4 (some packetQ2))]) := by decide

/-! Decoders -/

/-- Q1 and Q3: the low nibble of byte 6 and bytes 1 and 2 are ignored. -/
theorem test_decSync : decSync packetQ1 = .sync ⟨42, 15⟩ ∧ decSync packetQ3 = .sync ⟨255, 0⟩ := by decide

theorem test_execDecSync :
    (nextOf (exec (.decSync packetQ1) State.reset)).map State.rq = some [.sync ⟨42, 15⟩] := by decide

/-- M1 and M2. -/
theorem test_decMsg :
    decMsg packetM1 = .msg ⟨1, 3, [8, 7, 6, 5, 4, 3, 2, 1]⟩ ∧
    decMsg packetM2 = .msg ⟨16, 0, [0, 0, 0, 0x4F, 0x4C, 0x4C, 0x45, 0x48]⟩ := by decide

/-- U1 and U3. -/
theorem test_decUpl :
    decUpl packetU1 = .upl ⟨2, 2, [⟨256, 148640000⟩]⟩ ∧
    decUpl packetU3 = .upl ⟨2, 2, [⟨1, 148002500⟩, ⟨2, 148005000⟩, ⟨3, 148007500⟩, ⟨4095, 158237500⟩]⟩ := by decide

/-- N1 and N3: 79 and 321 are filtered, 80 and 320 kept. -/
theorem test_decDnl :
    decDnl packetN1 = .dnl ⟨[⟨80, 137200000⟩]⟩ ∧
    decDnl packetN3 = .dnl ⟨[⟨320, 137800000⟩, ⟨81, 137202500⟩]⟩ := by decide

/-- L1v and L4v. -/
theorem test_decEle :
    decEle packetL1 = .ele ⟨16777215, 6039797400, 4294967295, 6442451397766533270⟩ ∧
    decEle packetL4 = .ele ⟨1193046, 429496560, 2596069104, 3894103931183325024⟩ := by decide

/-- H4. -/
theorem test_decEph : decEph defaultEphLayout triggerH4 followerH4 = recordH4 := by decide

/-- H3, the largest field values. -/
theorem test_decEph_maximum :
    decEph defaultEphLayout ⟨0x1F, 0xFF, 0xFF, 0xFF, 0xFF, 0xFF, 0xFF, 0xFF, 0xFF, 0xFF, 0xFF, 0xFF⟩
      ⟨0xFF, 0xFF, 0xFF, 0xFF, 0xFF, 0xFF, 0xFF, 0xFF, 0xFF, 0xFF, 0x33, 0xC3⟩ =
    .eph {
      scId := 255
      gpsWeek := 65535
      gpsSeconds := 16777215
      gpsTime := 39652345215
      raw := ⟨1048575, 1048575, 1048575, 1048575, 1048575, 1048575⟩
      pos := ⟨8785115500970, 8785115500970, 8785115500970⟩
      vel := ⟨8074019800, 8074019800, 8074019800⟩
      radius := 15216266398040
      height := 8528291383640
      speed := 13984612514 } := by decide

theorem test_isqrt : isqrt 0 = 0 ∧ isqrt 15 = 3 ∧ isqrt 16 = 4 ∧ isqrt 17 = 4 := by decide

/-! Host steps -/

/-- K2 and the refused address (60_exceptions.md R276). -/
theorem test_configuration :
    (nextOf (exec (.cfgWrite 0 0x3C) State.reset)).map State.cfgEnable = some 0x3C ∧
    (nextOf (exec (.cfgRead 0) (withEnable State.reset 0x3C))).map State.cfgData = some (some 0x3C) ∧
    nextOf (exec (.cfgWrite 1 0) State.reset) = none := by decide

/-- K1 and K4. -/
theorem test_reset :
    (nextOf (exec .reset (withEnable (ephOf triggerH4 [followerH4]) 0))).map
      (fun t => (t.dsp, t.pq, t.cfgEnable)) = some (.idle, [], 0xFF) := by decide

/-- A byte that is neither 0 nor 1 is no symbol (60_exceptions.md R276). -/
theorem test_offerSymbols :
    (nextOf (offerSymbols [1, 0] State.reset)).map State.inBits = some [true, false] ∧
    nextOf (offerSymbols [1, 2] State.reset) = none := by decide

/-- The port carries the list of U1 in four slots and that of N3 in five (30_encoding.md R93, R94). -/
theorem test_outPort :
    ({ State.reset with rq := [decUpl packetU1] } : State).outPort =
      some ⟨0x1B, .upl 2 2 ⟨1, [⟨256, 148640000⟩, ⟨0, 0⟩, ⟨0, 0⟩, ⟨0, 0⟩]⟩⟩ ∧
    ({ State.reset with rq := [decDnl packetN3] } : State).outPort =
      some ⟨0x1C, .dnl ⟨2, [⟨320, 137800000⟩, ⟨81, 137202500⟩, ⟨0, 0⟩, ⟨0, 0⟩, ⟨0, 0⟩]⟩⟩ := by decide

theorem test_snkTake :
    (nextOf (exec .snkTake { State.reset with rq := [.sync ⟨7, 3⟩, .sync ⟨9, 5⟩] })).map
      (fun t => (t.rq, t.trace)) = some ([.sync ⟨9, 5⟩], [.delivered (.sync ⟨7, 3⟩)]) := by decide

/-- K3 in one step: with every type disabled a valid packet is dropped. -/
theorem test_all_disabled :
    eventsOf (exec (.decMsg packetM1) (withEnable State.reset 0)) = some [.drop (.unknownOrDisabled packetM1)] := by
  decide

/-! Witnesses: for every statement with hypotheses, operands and states that meet them all, one for each clause -/

theorem witness_StepTakesScheduledAction :
    (popOf packetQ2).sched = .dspPop :: [] ∧ State.reset.sched = [] := by decide

theorem witness_StepRunsDecodedPacket :
    (popOf packetM1).sched = .dspPop :: [] ∧ (popOf packetM1).dsp = .idle ∧ (popOf packetM1).pq = packetM1 :: [] ∧
    (popOf packetM1).rqFull = false ∧ decode (.bytes packetM1.bytes) = .ok (.decMsg packetM1) :=
  ⟨rfl, rfl, rfl, rfl, rfl⟩

theorem witness_StepRunsDecodedPair :
    (ephOf triggerH4 [followerH4]).sched = .dspEph :: [] ∧
    (ephOf triggerH4 [followerH4]).dsp = .ephPending triggerH4 ∧
    (ephOf triggerH4 [followerH4]).pq = followerH4 :: [] ∧ (ephOf triggerH4 [followerH4]).rqFull = false ∧
    decode (.bytes (triggerH4.bytes ++ followerH4.bytes)) = .ok (.decEph triggerH4 followerH4) :=
  ⟨rfl, rfl, rfl, rfl, rfl⟩

theorem witness_StepRunsDecodedWindow :
    (bitOf (syncWord.take 23) true).sched = .synBit :: [] ∧
    (bitOf (syncWord.take 23) true).inBit = some true ∧
    (bitOf (syncWord.take 23) true).fqFull = false ∧
    decode (.window (slideWindow (bitOf (syncWord.take 23) true).w true)) = .ok .syncMatch ∧
    decode (.window (slideWindow (bitOf [] true).w true)) = .error (.shortWindow 1) :=
  ⟨rfl, rfl, rfl, rfl, rfl⟩

theorem witness_DecodeOfEncodeIsIdentity :
    (Instr.decEph triggerH4 packetZero).wellFormed = true ∧
    encode (.decEph triggerH4 packetZero) = some (.bytes (triggerH4.bytes ++ packetZero.bytes)) ∧
    Instr.syncMatch.wellFormed = true ∧ encode .syncMatch = some (.window syncWord) := ⟨rfl, rfl, rfl, rfl⟩

theorem witness_EncodeOfDecodeIsIdentity :
    decode (.bytes packetZero.bytes) = .ok (.discUnk packetZero) ∧
    decode (.window (syncWord ++ [false])) = .ok .syncMatch := ⟨rfl, rfl⟩

theorem witness_EveryTagDecodes :
    packetZero.bytes.length = 12 ∧ packetZero.bytes.head? ≠ some 0x1F#8 ∧
    (triggerH4.bytes ++ followerH4.bytes).length = 24 ∧
    (triggerH4.bytes ++ followerH4.bytes).head? = some 0x1F#8 := by decide

/-- The first two bits are listed, then the input goes on without end from source 7. -/
def unboundedInput : State := { State.reset with inBits := [true, false], inSource := some 7, inPos := 2 }

/-- An unbounded input always offers a bit, and no state with one is quiescent (10_state.md R36, 60_exceptions.md R280). -/
theorem test_unbounded_input :
    enabled unboundedInput .synBit = true ∧ quiescent unboundedInput = false ∧
    unboundedInput.inBit = some (Config.sourceBit 7 2) := ⟨by decide, by decide, rfl⟩

/-- At capacity and below it, with and without a match, of a finite input and behind the listed bits of an unbounded one. -/
theorem witness_SynBitTakesOneBit :
    (unboundedInput.inBits.length ≤ unboundedInput.inPos ∧
      ∃ k, unboundedInput.inSource = some k ∧ Config.sourceBit 7 2 = Config.sourceBit k unboundedInput.inPos) ∧
    unboundedInput.fqFull = false ∧
    (bitOf (List.replicate 4800 false) true).inBits[(bitOf (List.replicate 4800 false) true).inPos]? = some true ∧
    (bitOf (List.replicate 4800 false) true).fqFull = false ∧
    (bitOf (List.replicate 4800 false) true).w.length = 4800 ∧
    (bitOf (syncWord.take 23) true).fqFull = false ∧ windowMatches (syncWord.take 23 ++ [true]) = true :=
  ⟨⟨by decide, 7, rfl, rfl⟩, rfl, rfl, rfl, List.length_replicate, rfl, rfl⟩

theorem witness_SyncMatchPushesWindow :
    State.reset.fqFull = false ∧ windowMatches State.reset.w = false ∧
    ({ State.reset with w := syncWord } : State).fqFull = false ∧ windowMatches syncWord = true := by decide

/-- Streams of 24 and of 4800 bits with the word, and one without. -/
theorem witness_WarmUpFrames :
    syncWord.length ≤ 4800 ∧ syncWord.take 24 = syncWord ∧
    (syncWord ++ List.replicate 4776 false).length ≤ 4800 ∧
    (syncWord ++ List.replicate 4776 false).take 24 = syncWord ∧
    ([] : List Bool).length ≤ 4800 ∧ ([] : List Bool).take 24 ≠ syncWord := by
  refine ⟨by decide, rfl, ?_, rfl, by decide, by decide⟩
  rw [List.length_append, List.length_replicate]
  decide

theorem witness_SteadyStateFrames : 4800 ≤ (List.replicate 4800 false).length :=
  Nat.le_of_eq List.length_replicate.symm

theorem witness_ByteIsSumOfBits : 2 < syncWord.length / 8 := by decide

theorem witness_PacketsRoundTrip : (List.replicate 95 true).length < 96 := by decide

theorem witness_PacketBitIsFrameBit : 0 < npackets (packetBits packetM1) ∧ 95 < 96 := by decide

/-- The 96 bits of packet Q2 are a frame. -/
theorem witness_FramePacketZeroIsSync :
    frameWf (packetBits packetQ2) ∧ 96 ≤ (packetBits packetQ2).length := ⟨⟨by decide, by decide, by decide⟩, by decide⟩

theorem witness_PkzLoadTakesFrame :
    (loadOf syncWord).pzRem = none ∧ (loadOf syncWord).fq = syncWord :: [] ∧
    (loadOf (packetBits packetQ2)).pzRem = none ∧ (loadOf (packetBits packetQ2)).fq = packetBits packetQ2 :: [] :=
  ⟨rfl, rfl, rfl, rfl⟩

theorem witness_PkzEmitPushesPacket :
    ({ State.reset with pzRem := some [packetM1] } : State).pzRem = some (packetM1 :: []) ∧
    ({ State.reset with pzRem := some [packetM1, packetQ2] } : State).pzRem = some (packetM1 :: [packetQ2]) ∧
    ({ State.reset with pzRem := some [packetM1, packetQ2] } : State).pqFull = false := by decide

theorem witness_FletcherConcatenation : valid packetM1.bytes = true ∧ valid packetQ2.bytes = true := by decide

/-- The first and the last byte of a valid packet. -/
theorem witness_OneByteChangeIsDetected :
    (0x65 : Byte) ≠ 0x66 ∧
    valid ([] ++ 0x65 :: [0xA8, 0xF9, 0x07, 0, 0, 0x30, 0, 0, 0, 0x30, 0x93]) = true ∧
    (0x93 : Byte) ≠ 0 ∧
    valid ([0x65, 0xA8, 0xF9, 0x07, 0, 0, 0x30, 0, 0, 0, 0x30] ++ 0x93 :: []) = true := by decide

/-- Every clause: discarded, bad, decoded, stopped by the pre-check, held without it, held with it. -/
theorem witness_DspPopFollowsRoute :
    (popOf packetNc).dsp = .idle ∧ (popOf packetNc).pq = packetNc :: [] ∧ (popOf packetNc).rqFull = false ∧
    route packetNc.b0 (popOf packetNc).cfgEnable = .discard ∧
    (route packetBad.b0 (popOf packetBad).cfgEnable = .single .downlink ∧ fletcher packetBad.bytes ≠ 0) ∧
    (route packetQ2.b0 (popOf packetQ2).cfgEnable = .single .synchronization ∧ fletcher packetQ2.bytes = 0) ∧
    (route triggerH4.b0 (withPrecheck (popOf triggerH4)).cfgEnable = .eph ∧
      (withPrecheck (popOf triggerH4)).params.ephTriggerPrecheck = true ∧ fletcher triggerH4.bytes ≠ 0) ∧
    (route triggerH4.b0 (popOf triggerH4).cfgEnable = .eph ∧
      (popOf triggerH4).params.ephTriggerPrecheck = false) ∧
    (route (⟨0x1F, 0, 0, 0, 0, 0, 0, 0, 0, 0, 0xAB, 0x36⟩ : Packet).b0 (popOf triggerH4).cfgEnable = .eph ∧
      fletcher (⟨0x1F, 0, 0, 0, 0, 0, 0, 0, 0, 0, 0xAB, 0x36⟩ : Packet).bytes = 0) := by decide

theorem witness_DspEphLooksAhead :
    (ephOf triggerH4 []).dsp = .ephPending triggerH4 ∧ (ephOf triggerH4 []).rqFull = false ∧
    (ephOf triggerH4 []).pq = [] ∧
    ((ephOf triggerH4 [followerH4]).pq = followerH4 :: [] ∧ fletcher (triggerH4.bytes ++ followerH4.bytes) = 0) ∧
    ((ephOf triggerH4 [packetQ2]).pq = packetQ2 :: [] ∧ fletcher (triggerH4.bytes ++ packetQ2.bytes) ≠ 0) := by
  decide

theorem witness_DiscardsRecordOneDrop :
    State.reset.rqFull = false ∧
    Instr.discUnk packetZero ∈ [Instr.discNc packetZero, Instr.discFill packetZero, Instr.discUnk packetZero] := by
  decide

/-- A disabled type, an enabled one with a bad checksum, and a bad pair. -/
theorem witness_BadOrDisabledPacketsAreDropped :
    State.reset.rqFull = false ∧ (withEnable State.reset 0x7F).rqFull = false ∧
    (withEnable State.reset 0x7F).cfgEnable.getLsbD 7 = false ∧
    (withEnable State.reset 0x01).cfgEnable.getLsbD 0 = true ∧ fletcher packetBad.bytes ≠ 0 ∧
    fletcher (packetBad.bytes ++ packetQ2.bytes) ≠ 0 := by decide

theorem witness_DecSyncEmitsRecord :
    State.reset.rqFull = false ∧ State.reset.cfgEnable.getLsbD 0 = true ∧ fletcher packetQ1.bytes = 0 := by decide

theorem witness_DecMsgEmitsRecord :
    State.reset.rqFull = false ∧ State.reset.cfgEnable.getLsbD 1 = true ∧ fletcher packetM1.bytes = 0 := by decide

theorem witness_DecUplEmitsRecord :
    State.reset.rqFull = false ∧ State.reset.cfgEnable.getLsbD 2 = true ∧ fletcher packetU3.bytes = 0 ∧
    0x1002003FFF = le [packetU3.b3, packetU3.b4, packetU3.b5, packetU3.b6, packetU3.b7, packetU3.b8] := by
  decide

theorem witness_DecDnlEmitsRecord :
    State.reset.rqFull = false ∧ State.reset.cfgEnable.getLsbD 3 = true ∧ fletcher packetN1.bytes = 0 ∧
    0x50 = le [packetN1.b2, packetN1.b3, packetN1.b4, packetN1.b5, packetN1.b6, packetN1.b7, packetN1.b8, packetN1.b9] := by
  decide

theorem witness_DecEleEmitsRecord :
    State.reset.rqFull = false ∧ State.reset.cfgEnable.getLsbD 7 = true ∧ fletcher packetL4.bytes = 0 ∧
    0x123456 = packetL4.b3.toNat + 2 ^ 8 * packetL4.b4.toNat + 2 ^ 16 * packetL4.b5.toNat ∧
    0x9ABCDEF0 = packetL4.b6.toNat + 2 ^ 8 * packetL4.b7.toNat + 2 ^ 16 * packetL4.b8.toNat +
      2 ^ 24 * packetL4.b9.toNat := by decide

/-- Every other variable of the statement is given by an equation. The last bit and the last field of a pair are inside its
bytes. -/
theorem witness_DecEphEmitsRecord :
    191 < 8 * (triggerH4.bytes ++ followerH4.bytes).length ∧
    116 + 20 ≤ 8 * (triggerH4.bytes ++ followerH4.bytes).length ∧
    172 + 20 ≤ 8 * (triggerH4.bytes ++ followerH4.bytes).length ∧ State.reset.rqFull = false ∧ fletcher (triggerH4.bytes ++ followerH4.bytes) = 0 ∧
    2200 = followerH4.b8.toNat + 2 ^ 8 * followerH4.b9.toNat ∧
    345600 = followerH4.b5.toNat + 2 ^ 8 * followerH4.b6.toNat + 2 ^ 16 * followerH4.b7.toNat ∧
    Six.mk 961234 524288 300000 524288 1000000 400000 =
      rawFields State.reset.params.ephLayout (triggerH4.bytes ++ followerH4.bytes) := by decide

theorem witness_ConfigurationPort : (1 : Nat) ≠ 0 := by decide

theorem witness_SymbolsAreBits : (2 : Byte) ≠ 0#8 ∧ (2 : Byte) ≠ 1#8 := by decide

theorem witness_SnkTakeDeliversHead :
    ({ State.reset with rq := [.sync ⟨7, 3⟩] } : State).rq = .sync ⟨7, 3⟩ :: [] ∧ State.reset.rq = [] ∧
    ([] : List Chan).length ≤ 4 ∧ [Chan.mk 80 137200000, ⟨81, 137202500⟩, ⟨82, 137205000⟩, ⟨83, 137207500⟩].length ≤ 4 ∧
    [Chan.mk 80 137200000, ⟨81, 137202500⟩, ⟨82, 137205000⟩, ⟨83, 137207500⟩, ⟨84, 137210000⟩].length ≤ 5 := by decide

/-- Right after reset no step of the block is enabled; a full channel disables a push. -/
theorem witness_DisabledStepWaits :
    (∀ a ∈ drainOrder, enabled State.reset a = false) ∧
    enabled (withDepths { bitOf [] true with fq := [syncWord] }) .synBit = false ∧
    enabled (withDepths { popOf packetM1 with pzRem := some [packetQ2] }) .pkzEmit = false ∧
    enabled (withDepths { popOf packetM1 with rq := [.sync ⟨7, 3⟩] }) .dspPop = false := by decide

/-- One step of each agent but `RSTH`. -/
theorem witness_EachElementHasItsWriters :
    (∀ a ∈ [Action.synBit, .pkzLoad, .pkzEmit, .dspPop, .dspEph, .cfgWrite 0 0, .cfgRead 0, .snkTake],
      a.agent ≠ .rsth) ∧
    (∃ t, exec Action.synBit.toInstr (bitOf [] true) = .next t) ∧
    (∃ t, exec Action.pkzLoad.toInstr (loadOf syncWord) = .next t) ∧
    (∃ t, exec Action.dspPop.toInstr (popOf packetM1) = .next t) ∧
    (∃ t, exec (Action.cfgWrite 0 0).toInstr State.reset = .next t) ∧
    (∃ t, exec Action.snkTake.toInstr { State.reset with rq := [.sync ⟨7, 3⟩] } = .next t) :=
  ⟨by decide, ⟨_, rfl⟩, ⟨_, rfl⟩, ⟨_, rfl⟩, ⟨_, rfl⟩, ⟨_, rfl⟩⟩

theorem witness_ParametersAndTraceKept :
    Instr.discNc packetNc ≠ .reset ∧ ∃ t, exec (.discNc packetNc) State.reset = .next t := ⟨by decide, _, rfl⟩

/-- A bounded machine with room for one more bit. -/
theorem witness_BoundedStepIsReferenceStep :
    enabled (withDepths (bitOf (syncWord.take 23) true)) .synBit = true ∧
    ∃ t, exec Action.synBit.toInstr (withDepths (bitOf (syncWord.take 23) true)) = .next t := ⟨by decide, _, rfl⟩

/-- A state of a bounded machine in the middle of its work: the sync word is accepted, its frame pushed and loaded; one
packet is decoded and one more waits (the packets are none of a frame, so `FollowsFrames` is not claimed of it). -/
def midway : State :=
  withDepths { State.reset with
    inBits := syncWord ++ [true]
    inPos := 24
    w := syncWord
    fq := [syncWord]
    pq := [packetM1]
    rq := [decSync packetQ1]
    trace := syncWord.map .bit ++ [.frame syncWord, .packet packetQ1, .record (decSync packetQ1), .packet packetM1]
    sched := [.snkTake] }

theorem midway_inv : midway.Inv where
  window := by decide
  frames := by
    intro f hf
    obtain rfl : f = syncWord := by simpa [midway, withDepths] using hf
    exact ⟨by decide, by decide, rfl⟩
  rest := by decide
  held := by intro a h; cases h
  records := by
    intro r hr
    obtain rfl : r = decSync packetQ1 := by simpa [midway, withDepths] using hr
    exact ⟨by decide, by decide⟩
  fqBound := by intro d h; cases h; decide
  pqBound := by intro d h; cases h; decide
  rqBound := by intro d h; cases h; decide
  input := by decide

theorem witness_StepKeepsDataModel : midway.Inv ∧ ∃ t, step midway = .next t := ⟨midway_inv, _, rfl⟩

theorem witness_StepFollowsBits : midway.FollowsBits ∧ ∃ t, step midway = .next t := ⟨by
  unfold State.FollowsBits; decide, _, rfl⟩

/-- A frame of one packet waits, and the packetizer is to step. -/
theorem witness_StepFollowsFrames :
    ({ loadOf (packetBits packetM1) with trace := [.frame (packetBits packetM1)] } : State).FollowsFrames ∧
    ∃ t, step { loadOf (packetBits packetM1) with trace := [.frame (packetBits packetM1)] } = .next t := ⟨by
  unfold State.FollowsFrames; decide, _, rfl⟩

theorem witness_StepFollowsRecords : midway.FollowsRecords ∧ ∃ t, step midway = .next t := ⟨by
  unfold State.FollowsRecords; decide, _, rfl⟩

/-- The 24 bits, the frame and the packets account for none, the record for packet Q1; packet M1 waits. -/
theorem witness_StepAccountsForPackets : midway.AccountsPackets ∧ ∃ t, step midway = .next t := by
  refine ⟨⟨?_, List.replicate 26 [] ++ [[packetQ1], []], ?_, rfl⟩, _, rfl⟩
  · intro a h; cases h
  · simp only [midway, withDepths, syncWord, List.map, List.cons_append, List.nil_append, List.replicate]
    repeat' first | exact List.Forall₂.nil | apply List.Forall₂.cons
    all_goals first | rfl | exact .inl ⟨.synchronization, packetQ1, rfl, by decide, by decide, rfl⟩

theorem witness_StepKeepsRecordsSound : midway.RecordsSound ∧ ∃ t, step midway = .next t := by
  refine ⟨⟨?_, ?_, ?_⟩, _, rfl⟩
  · intro a h; cases h
  · exact ⟨[packetQ1], rfl⟩
  · intro r hr
    obtain rfl : r = decSync packetQ1 := List.mem_singleton.mp hr
    exact ⟨[packetQ1], ⟨[], [packetM1], rfl⟩, .inl ⟨.synchronization, packetQ1, rfl, by decide, by decide, rfl⟩⟩

theorem midway_depthsLegal : midway.depthsLegal := by unfold State.depthsLegal; decide

theorem witness_EnabledUntilQuiescent :
    midway.Inv ∧ midway.depthsLegal ∧ quiescent midway = false ∧ quiescent State.reset = true :=
  ⟨midway_inv, midway_depthsLegal, by decide, by decide⟩

theorem witness_EnabledStepLowersWork :
    midway.Inv ∧ Action.snkTake ∈ drainOrder ∧ (Action.snkTake = .synBit → midway.inSource = none) ∧
    enabled midway .snkTake = true ∧ ∃ t, exec Action.snkTake.toInstr midway = .next t :=
  ⟨midway_inv, by decide, fun _ => rfl, by decide, _, rfl⟩

/-- A run of one enabled step, the load of a frame of 24 bits, after which the sink's turns find nothing to take. -/
def loadRun : Nat → State
  | 0 => loadOf syncWord
  | _ + 1 => { State.reset with sched := [.pkzLoad], trace := [.drop (.incompleteFrameData 0 3)] }

def loadRunActs : Nat → Action
  | 0 => .pkzLoad
  | _ + 1 => .snkTake

theorem loadRun_inv : (loadRun 0).Inv where
  window := by decide
  frames := by
    intro f hf
    obtain rfl : f = syncWord := by simpa [loadRun, loadOf] using hf
    exact ⟨by decide, by decide, rfl⟩
  rest := by decide
  held := by intro a h; cases h
  records := by intro r hr; cases hr
  fqBound := by intro d h; cases h
  pqBound := by intro d h; cases h
  rqBound := by intro d h; cases h
  input := by decide

theorem loadRun_isRun : IsRun loadRun loadRunActs := by
  intro n
  cases n <;> rfl

/-- Nothing is enabled from the second state on, so no agent stays enabled. -/
theorem loadRun_fair : WeaklyFair loadRun loadRunActs := by
  intro g n h
  obtain ⟨a, ha, _, he⟩ := h (n + 1) (Nat.le_succ n)
  have hn : ∀ a ∈ drainOrder, enabled (loadRun 1) a = false := by decide
  exact absurd he (Bool.eq_false_iff.mp (hn a ha))

theorem witness_DrainAndFairRunsReachQuiescence :
    (midway.Inv ∧ midway.depthsLegal ∧ midway.inSource = none) ∧
    IsRun loadRun loadRunActs ∧ WeaklyFair loadRun loadRunActs ∧ (loadRun 0).Inv ∧ (loadRun 0).depthsLegal ∧
    (loadRun 0).inSource = none ∧ (∀ n, loadRunActs n ≠ .reset) := by
  refine ⟨⟨midway_inv, midway_depthsLegal, rfl⟩, loadRun_isRun, loadRun_fair, loadRun_inv, ?_, rfl, ?_⟩
  · unfold State.depthsLegal; decide
  · intro n h; cases n <;> cases h

/-- An agent step between two directives, and a script without one (30_encoding.md R98). -/
theorem test_runInterleaved :
    (nextOf (runInterleaved [([], .bits [true]), ([.synBit], .cfg 0)] State.reset)).map (fun t => (t.inPos, t.cfgEnable)) =
      some (1, 0) ∧
    (nextOf (runScript [.bits [true], .cfg 0] State.reset)).map (fun t => (t.inPos, t.cfgEnable)) = some (0, 0) := by
  decide

end Sys2Proof.Tests
end

section
/-! The schedule: which action a step takes, in which state (10_state.md R20). -/

namespace Sys2Proof.Machine

theorem State.nextAction_of_sched_cons {s : State} {a : Action} {rest : List Action} (h : s.sched = a :: rest) :
    s.nextAction = (a, { s with sched := rest }) := by
  simp [State.nextAction, h]

theorem State.nextAction_of_sched_nil {s : State} (h : s.sched = []) :
    s.nextAction = (Config.freeAction s.tick, { s with tick := s.tick + 1 }) := by
  simp [State.nextAction, h]

/-- Settles O1: the two equations of the schedule, read through `step`. -/
theorem stepTakesScheduledAction : Obligations.StepTakesScheduledAction := by
  unfold Obligations.StepTakesScheduledAction step
  constructor
  · intro s a rest h
    rw [State.nextAction_of_sched_cons h]
  · intro s h
    rw [State.nextAction_of_sched_nil h]

end Sys2Proof.Machine
end

section
/-! The integer square root (00_scope.md R9), computed one binary digit after another. -/

namespace Sys2Proof.Machine

/-- Each digit halves the interval `[r, r + 2 ^ k)` in which the root lies. -/
theorem isqrtDigits_bounds {n : Nat} (k : Nat) {r : Nat} (hlo : r * r ≤ n)
    (hhi : n < (r + 2 ^ k) * (r + 2 ^ k)) :
    isqrtDigits n k r * isqrtDigits n k r ≤ n ∧ n < (isqrtDigits n k r + 1) * (isqrtDigits n k r + 1) := by
  induction k generalizing r with
  | zero => exact ⟨hlo, hhi⟩
  | succ k ih =>
    unfold isqrtDigits
    split
    · next hset =>
      have hwidth : r + 2 ^ k + 2 ^ k = r + 2 ^ (k + 1) := by omega
      exact ih hset (by rwa [hwidth])
    · next hclear => exact ih hlo (Nat.lt_of_not_le hclear)

/-- The number of digits `isqrt` computes is enough. -/
theorem lt_sq_two_pow_log2_half (n : Nat) : n < 2 ^ (n.log2 / 2 + 1) * 2 ^ (n.log2 / 2 + 1) :=
  calc n < 2 ^ (n.log2 + 1) := Nat.lt_log2_self
    _ ≤ 2 ^ (n.log2 / 2 + 1 + (n.log2 / 2 + 1)) := Nat.pow_le_pow_right (by decide) (by omega)
    _ = 2 ^ (n.log2 / 2 + 1) * 2 ^ (n.log2 / 2 + 1) := Nat.pow_add ..

/-- Settles O43: the root lies below `2 ^ (log2 n / 2 + 1)`, and the digits narrow that interval to one number. -/
theorem isqrtIsFloorOfSqrt : Obligations.IsqrtIsFloorOfSqrt := by
  unfold Obligations.IsqrtIsFloorOfSqrt isqrt
  intro n
  exact isqrtDigits_bounds _ (Nat.zero_le n) (by simpa using lt_sq_two_pow_log2_half n)

end Sys2Proof.Machine
end

section
/-! What every operation keeps: the parameters, the host's input, the schedule, and the events already in the trace
(00_scope.md R7, 10_state.md R31, R36). -/

namespace Sys2Proof.Machine

/-- The part of the state that no operation writes. -/
def State.givens (s : State) : Params × List Bool × Option Nat × List Action × Nat :=
  (s.params, s.inBits, s.inSource, s.sched, s.tick)

theorem State.givens_eq_iff {s t : State} : t.givens = s.givens ↔
    t.params = s.params ∧ t.inBits = s.inBits ∧ t.inSource = s.inSource ∧ t.sched = s.sched ∧ t.tick = s.tick := by
  simp [State.givens]

/-- `t` has the givens of `s`, and its trace goes on from that of `s`. -/
structure State.Continues (s t : State) : Prop where
  givens : t.givens = s.givens
  trace : s.trace <+: t.trace

namespace State.Continues

theorem refl (s : State) : s.Continues s := ⟨rfl, List.prefix_rfl⟩

theorem trans {s t u : State} (hst : s.Continues t) (htu : t.Continues u) : s.Continues u :=
  ⟨htu.givens.trans hst.givens, hst.trace.trans htu.trace⟩

/-- Writing elements of the block and logging one event. -/
theorem of_logged {s t : State} (e : Event) (hg : t.givens = s.givens) (ht : t.trace = s.trace ++ [e]) :
    s.Continues t :=
  ⟨hg, ht ▸ List.prefix_append _ _⟩

theorem of_noteIncomplete (f : Frame) (s : State) : s.Continues (noteIncomplete f s) := by
  rcases noteIncomplete_cases f s with ⟨bits, bytes, hn⟩ | hn <;> rw [hn]
  · exact of_logged _ rfl rfl
  · exact refl s

end State.Continues

/-- Whatever an agent or host step leads to continues the state it was taken in, `RESET` apart. -/
theorem Effect.continues {s t : State} {a : Action} (h : Effect s a t) (ha : a ≠ .reset) : s.Continues t := by
  cases h with
  | waited => exact .refl s
  | accepted b => exact .of_logged (.bit b) rfl rfl
  | framed b =>
    have hbit : s.Continues (acceptBit b s) := .of_logged (.bit b) rfl rfl
    exact hbit.trans (.of_logged (.frame _) rfl rfl)
  | loaded f rest =>
    obtain ⟨hgivens, htrace⟩ := State.Continues.of_noteIncomplete f (s.setFq rest)
    exact ⟨hgivens, htrace⟩
  | packeted p => exact .of_logged (.packet p) rfl rfl
  | popDropped a rest d => exact .of_logged (.drop d) rfl rfl
  | popDecoded a rest ty r => exact .of_logged (.record r) rfl rfl
  | popHeld => exact ⟨rfl, List.prefix_rfl⟩
  | ephAbandoned => exact .of_logged (.drop _) rfl rfl
  | ephDecoded => exact .of_logged (.record _) rfl rfl
  | ephDropped => exact .of_logged (.drop _) rfl rfl
  | configured => exact ⟨rfl, List.prefix_rfl⟩
  | configRead => exact ⟨rfl, List.prefix_rfl⟩
  | wasReset => exact absurd rfl ha
  | took r => exact .of_logged (.delivered r) rfl rfl

theorem exec_action_continues (a : Action) {s t : State} (h : exec a.toInstr s = .next t) (ha : a ≠ .reset) :
    s.Continues t :=
  (exec_effect h).continues ha

theorem handleSingle_continues {ty : PacketType} {dec : Packet → Record} {p : Packet} {s t : State}
    (h : handleSingle ty dec p s = .next t) : s.Continues t := by
  rcases handleSingle_cases h with ⟨_, rfl⟩ | ⟨_, _, _, rfl⟩ | ⟨_, _, _, rfl⟩ | ⟨_, _, rfl⟩
  · exact .refl t
  · exact .of_logged (.record _) rfl rfl
  · exact .of_logged (.drop _) rfl rfl
  · exact .of_logged (.drop _) rfl rfl

theorem discardPacket_continues {p : Packet} {s t : State} (h : discardPacket p s = .next t) : s.Continues t := by
  rcases discardPacket_cases h with ⟨_, rfl⟩ | ⟨_, rfl⟩
  · exact .refl t
  · exact .of_logged (.drop _) rfl rfl

theorem execDecEph_continues {a b : Packet} {s t : State} (h : execDecEph a b s = .next t) : s.Continues t := by
  rcases execDecEph_cases h with ⟨_, rfl⟩ | ⟨_, _, rfl⟩ | ⟨_, _, rfl⟩
  · exact .refl t
  · exact .of_logged (.record _) rfl rfl
  · exact .of_logged (.drop _) rfl rfl

theorem execSyncMatch_continues {s t : State} (h : execSyncMatch s = .next t) : s.Continues t := by
  rcases execSyncMatch_cases h with ⟨_, _, rfl⟩ | ⟨_, rfl⟩
  · exact .of_logged (.frame _) rfl rfl
  · exact .refl t

/-- Every operation but `RESET` continues the state it runs in. -/
theorem exec_continues {i : Instr} {s t : State} (h : exec i s = .next t) (hi : i ≠ .reset) : s.Continues t := by
  cases i with
  | decSync p | decMsg p | decUpl p | decDnl p | decEle p => exact handleSingle_continues h
  | discNc p | discFill p | discUnk p => exact discardPacket_continues h
  | decEph a b => exact execDecEph_continues h
  | syncMatch => exact execSyncMatch_continues h
  | synBit => exact exec_action_continues .synBit h nofun
  | pkzLoad => exact exec_action_continues .pkzLoad h nofun
  | pkzEmit => exact exec_action_continues .pkzEmit h nofun
  | dspPop => exact exec_action_continues .dspPop h nofun
  | dspEph => exact exec_action_continues .dspEph h nofun
  | cfgWrite addr v => exact exec_action_continues (.cfgWrite addr v) h nofun
  | cfgRead addr => exact exec_action_continues (.cfgRead addr) h nofun
  | reset => exact absurd rfl hi
  | snkTake => exact exec_action_continues .snkTake h nofun

/-- `RESET` clears the trace but keeps the givens (log 18). -/
theorem exec_reset_givens {s t : State} (h : exec .reset s = .next t) : t.givens = s.givens := by
  cases h; rfl

/-- Settles O50: `RESET` keeps the givens, and every other operation continues the state. -/
theorem parametersAndTraceKept : Obligations.ParametersAndTraceKept := by
  unfold Obligations.ParametersAndTraceKept
  intro i s t h
  have hgivens : t.givens = s.givens := by
    by_cases hi : i = .reset
    · subst hi; exact exec_reset_givens h
    · exact (exec_continues h hi).givens
  obtain ⟨hparams, hbits, hsource, hsched, htick⟩ := State.givens_eq_iff.mp hgivens
  exact ⟨hparams, hbits, hsource, hsched, htick, fun hi => (exec_continues h hi).trace⟩

end Sys2Proof.Machine
end

section
/-! Records are well formed by construction (30_encoding.md R91 to R96): what the link and orbit decoders make of any
packet. -/

namespace Sys2Proof.Machine

theorem mem_of_mem_slice {α : Type} {l : List α} {a b : Nat} {x : α} (h : x ∈ slice l a b) : x ∈ l :=
  List.mem_of_mem_drop (List.mem_of_mem_take h)

theorem nibbles_lt {bs : List Byte} {n : Nat} (h : n ∈ nibbles bs) : n < 16 := by
  obtain ⟨b, -, hn⟩ := List.mem_flatMap.mp h
  rcases List.mem_pair.mp hn with rfl | rfl
  · exact hi4_lt b
  · exact lo4_lt b

/-- Triplets of nibbles are words of twelve bits. -/
theorem tris_lt {l : List Nat} (hl : ∀ n ∈ l, n < 16) : ∀ v ∈ tris l, v < 4096 := by
  induction l using tris.induct with
  | case1 a b c rest ih =>
    simp only [List.mem_cons, forall_eq_or_imp] at hl
    obtain ⟨ha, hb, hc, hrest⟩ := hl
    simp only [tris, List.mem_cons, forall_eq_or_imp]
    exact ⟨by omega, ih hrest⟩
  | case2 l hshort => simp [tris]

theorem uplCands_lt {p : Packet} {v : Nat} (h : v ∈ uplCands p) : v < 4096 :=
  tris_lt (fun _ hn => nibbles_lt (mem_of_mem_slice hn)) v h

theorem uplCands_length (p : Packet) : (uplCands p).length = 4 := rfl

theorem dnlCands_length (p : Packet) : (dnlCands p).length = 5 := rfl

theorem uplChans_length_le (cands : List Nat) : (uplChans cands).length ≤ cands.length := by
  simpa [uplChans] using List.length_filter_le _ cands

theorem dnlChans_length_le (cands : List Nat) : (dnlChans cands).length ≤ cands.length := by
  simpa [dnlChans] using List.length_filter_le _ cands

theorem uplChans_wf {cands : List Nat} (hlt : ∀ v ∈ cands, v < 4096) : ∀ c ∈ uplChans cands, uplChanWf c := by
  intro c hc
  obtain ⟨v, hv, rfl⟩ := List.mem_map.mp hc
  obtain ⟨hmem, hne⟩ := List.mem_filter.mp hv
  exact ⟨Nat.pos_of_ne_zero (of_decide_eq_true hne), Nat.le_of_lt_succ (hlt v hmem), rfl⟩

theorem dnlChans_wf (cands : List Nat) : ∀ c ∈ dnlChans cands, dnlChanWf c := by
  intro c hc
  obtain ⟨v, hv, rfl⟩ := List.mem_map.mp hc
  obtain ⟨hlo, hhi⟩ := of_decide_eq_true (List.mem_filter.mp hv).2
  exact ⟨hlo, hhi, rfl⟩

theorem le_lt_two_pow (l : List Byte) : le l < 2 ^ (8 * l.length) := by
  simpa [Nat.pow_mul] using le_lt l

variable (layout : Six BitField)

theorem decSync_wf (p : Packet) : recordWf layout (decSync p) :=
  ⟨p.b3.isLt, hi4_lt p.b6⟩

theorem decMsg_wf (p : Packet) : recordWf layout (decMsg p) :=
  ⟨Nat.le_add_left _ _, lo4_lt p.b1, hi4_lt p.b1, rfl⟩

theorem decUpl_wf (p : Packet) : recordWf layout (decUpl p) :=
  ⟨Nat.le_add_left _ _, lo4_lt p.b1, hi4_lt p.b1, uplChans_length_le (uplCands p),
    uplChans_wf fun _ hv => uplCands_lt hv⟩

theorem decDnl_wf (p : Packet) : recordWf layout (decDnl p) :=
  ⟨dnlChans_length_le (dnlCands p), dnlChans_wf (dnlCands p)⟩

theorem decEle_wf (p : Packet) : recordWf layout (decEle p) :=
  ⟨le_lt_two_pow (slice p.bytes 3 6), rfl, le_lt_two_pow (slice p.bytes 6 10), rfl⟩

theorem rawFields_wf (e : List Byte) : rawWf layout (rawFields layout e) :=
  ⟨field_lt .., field_lt .., field_lt .., field_lt .., field_lt .., field_lt ..⟩

theorem decEph_wf (a b : Packet) : recordWf layout (decEph layout a b) :=
  ⟨a.b1.isLt, le_lt_two_pow (slice (a.bytes ++ b.bytes) 20 22),
    le_lt_two_pow (slice (a.bytes ++ b.bytes) 17 20), rfl, rawFields_wf layout _, rfl, rfl, rfl, rfl, rfl⟩

theorem singleRecord_wf {ty : PacketType} {p : Packet} {r : Record} (h : singleRecord ty p = some r) :
    recordWf layout r := by
  cases ty with
  | synchronization => cases h; exact decSync_wf layout p
  | message => cases h; exact decMsg_wf layout p
  | uplink => cases h; exact decUpl_wf layout p
  | downlink => cases h; exact decDnl_wf layout p
  | elements => cases h; exact decEle_wf layout p
  | networkControl | fill | ephemeris => cases h

end Sys2Proof.Machine
end

section
/-! The data-model invariant (10_state.md R39): one rule per operation over the state, and from these that every step
keeps it. -/

namespace Sys2Proof.Machine

/-- A channel that is not full has room for one more item (00_scope.md R11). -/
theorem bounded_succ_of_not_full {depth : Option Nat} {len : Nat} (h : fullAt depth len = false) :
    bounded depth (len + 1) :=
  fullAt_eq_false.mp h

theorem bounded.mono {depth : Option Nat} {m n : Nat} (h : bounded depth n) (hmn : m ≤ n) : bounded depth m :=
  fun d hd => hmn.trans (h d hd)

theorem slideWindow_length_le {w : List Bool} (h : w.length ≤ windowCap) (b : Bool) :
    (slideWindow w b).length ≤ windowCap := by
  rw [slideWindow_length]
  split
  · exact le_rfl
  · next hne => exact Nat.lt_of_le_of_ne h hne

/-- A window within capacity that matches is a frame (10_state.md R24, 40_frame_sync.md R125). -/
theorem frameWf_of_windowMatches {w : List Bool} (hcap : w.length ≤ windowCap) (hm : windowMatches w = true) :
    frameWf w := by
  simp only [windowMatches, Bool.and_eq_true, decide_eq_true_eq] at hm
  obtain ⟨hlen, hsync⟩ := hm
  exact ⟨hlen, hcap, hsync⟩

/-- A finite `IN` offers a bit only before its end (10_state.md R36). -/
theorem State.inPos_lt_of_inBit {s : State} {b : Bool} (hb : s.inBit = some b) (hsrc : s.inSource = none) :
    s.inPos < s.inBits.length := by
  rcases State.inBit_eq_some.mp hb with hget | ⟨-, k, hk, -⟩
  · obtain ⟨hlt, -⟩ := List.getElem?_eq_some_iff.mp hget
    exact hlt
  · rw [hsrc] at hk; cases hk

namespace State.Inv

variable {s : State}

theorem log (h : s.Inv) (e : Event) : (s.log e).Inv := { h with }

theorem raise (h : s.Inv) (d : Drop) : (s.raise d).Inv := h.log _

theorem setCfgEnable (h : s.Inv) (v : Byte) : (s.setCfgEnable v).Inv := { h with }

theorem setCfgData (h : s.Inv) (v : Option Byte) : (s.setCfgData v).Inv := { h with }

theorem setPzRem (h : s.Inv) {r : Option (List Packet)} (hr : r ≠ some []) : (s.setPzRem r).Inv :=
  { h with rest := hr }

theorem setDsp_idle (h : s.Inv) : (s.setDsp .idle).Inv := { h with held := nofun }

theorem setDsp_ephPending (h : s.Inv) {a : Packet} (ha : typeOfTag a.b0 = some .ephemeris) :
    (s.setDsp (.ephPending a)).Inv :=
  { h with held := fun _ he => by cases he; exact ha }

/-- Taking the head of `FQ`. -/
theorem popFq (h : s.Inv) {f : Frame} {rest : List Frame} (hq : s.fq = f :: rest) : (s.setFq rest).Inv :=
  have hlen : rest.length ≤ s.fq.length := by simp [hq]
  { h with
    frames := fun g hg => h.frames g (hq ▸ List.mem_cons_of_mem f hg)
    fqBound := h.fqBound.mono hlen }

/-- Taking the head of `PQ`. -/
theorem popPq (h : s.Inv) {p : Packet} {rest : List Packet} (hq : s.pq = p :: rest) : (s.setPq rest).Inv :=
  have hlen : rest.length ≤ s.pq.length := by simp [hq]
  { h with pqBound := h.pqBound.mono hlen }

/-- Taking the head of `RQ`. -/
theorem popRq (h : s.Inv) {r : Record} {rest : List Record} (hq : s.rq = r :: rest) : (s.setRq rest).Inv :=
  have hlen : rest.length ≤ s.rq.length := by simp [hq]
  { h with
    records := fun q hr => h.records q (hq ▸ List.mem_cons_of_mem r hr)
    rqBound := h.rqBound.mono hlen }

theorem acceptBit (h : s.Inv) {b : Bool} (hb : s.inBit = some b) : (acceptBit b s).Inv :=
  { h with
    window := slideWindow_length_le h.window b
    input := State.inPos_lt_of_inBit hb }

theorem pushFrame (h : s.Inv) {f : Frame} (hroom : s.fqFull = false) (hf : frameWf f) : (s.pushFrame f).Inv :=
  { h with
    frames := List.forall_mem_append.mpr ⟨h.frames, List.forall_mem_singleton.mpr hf⟩
    fqBound := by simpa using bounded_succ_of_not_full hroom }

theorem pushPacket (h : s.Inv) (p : Packet) (hroom : s.pqFull = false) : (s.pushPacket p).Inv :=
  { h with pqBound := by simpa using bounded_succ_of_not_full hroom }

theorem emit (h : s.Inv) {r : Record} (hroom : s.rqFull = false) (hr : recordWf s.params.ephLayout r) :
    (s.emit r).Inv :=
  { h with
    records := List.forall_mem_append.mpr ⟨h.records, List.forall_mem_singleton.mpr hr⟩
    rqBound := by simpa using bounded_succ_of_not_full hroom }

theorem noteIncomplete (h : s.Inv) (f : Frame) : (noteIncomplete f s).Inv := by
  rcases noteIncomplete_cases f s with ⟨bits, bytes, hn⟩ | hn <;> rw [hn]
  · exact h.raise _
  · exact h

/-- The invariant does not speak of the schedule. -/
theorem of_sameBlock {t : State} (h : s.Inv) (hst : s.SameBlock t) : t.Inv := by
  rw [hst]; exact { h with }

end State.Inv

/-- Whatever an agent or host step leads to, it keeps the data-model invariant. -/
theorem Effect.keeps_inv {s t : State} {a : Action} (h : Effect s a t) (hs : s.Inv) : t.Inv := by
  cases h with
  | waited => exact hs
  | accepted b hb => exact hs.acceptBit hb
  | framed b hb hf hm =>
    exact (hs.acceptBit hb).pushFrame hf (frameWf_of_windowMatches (slideWindow_length_le hs.window b) hm)
  | loaded f rest _ hq => exact ((hs.popFq hq).noteIncomplete f).setPzRem (remOf_ne_some_nil _)
  | packeted p rest _ hf => exact (hs.pushPacket p hf).setPzRem (remOf_ne_some_nil rest)
  | popDropped p rest d _ hq => exact (hs.popPq hq).raise d
  | popDecoded p rest ty r _ hq hr _ _ hrec => exact (hs.popPq hq).emit hr (singleRecord_wf _ hrec)
  | popHeld p rest _ hq _ ht => exact (hs.popPq hq).setDsp_ephPending ht
  | ephAbandoned => exact hs.setDsp_idle.raise _
  | ephDecoded p q rest _ hq hr => exact (hs.setDsp_idle.popPq hq).emit hr (decEph_wf _ p q)
  | ephDropped p q rest _ hq => exact (hs.setDsp_idle.popPq hq).raise _
  | configured v => exact hs.setCfgEnable v
  | configRead => exact hs.setCfgData _
  | wasReset =>
    exact { hs with
      window := Nat.zero_le _, frames := nofun, rest := nofun, held := nofun, records := nofun,
      fqBound := fun _ _ => Nat.zero_le _, pqBound := fun _ _ => Nat.zero_le _, rqBound := fun _ _ => Nat.zero_le _ }
  | took r rest hq => exact (hs.popRq hq).log _

/-- Settles O52: a step is the effect of a scheduled action, and each effect keeps the invariant. -/
theorem stepKeepsDataModel : Obligations.StepKeepsDataModel := by
  unfold Obligations.StepKeepsDataModel
  intro s t hs h
  obtain ⟨a, u, hblock, heffect⟩ := step_effect h
  exact heffect.keeps_inv (hs.of_sameBlock hblock)

end Sys2Proof.Machine
end

section
/-! Which elements of the state each agent writes (10_state.md R20, R23 to R30, R36). -/

namespace Sys2Proof.Machine

/-- `s` with the elements agent `g` may write taken from `t`; `RESET` may write every one. -/
def Agent.overlay (g : Agent) (s t : State) : State :=
  match g with
  | .syn => { s with inPos := t.inPos, w := t.w, fq := t.fq, trace := t.trace }
  | .pkz => { s with fq := t.fq, pzRem := t.pzRem, pq := t.pq, trace := t.trace }
  | .dsp => { s with pq := t.pq, dsp := t.dsp, rq := t.rq, trace := t.trace }
  | .snk => { s with rq := t.rq, trace := t.trace }
  | .cfgh => { s with cfgEnable := t.cfgEnable, cfgData := t.cfgData }
  | .rsth => t

theorem Agent.overlay_self (g : Agent) (s : State) : Agent.overlay g s s = s := by
  cases g <;> rfl

/-- The load of a frame, whether it notes an incomplete frame or not, is a step of the packetizer. -/
theorem loaded_eq_overlay (s : State) (f : Frame) (rest : List Frame) (r : Option (List Packet)) :
    (noteIncomplete f (s.setFq rest)).setPzRem r =
      Agent.overlay .pkz s ((noteIncomplete f (s.setFq rest)).setPzRem r) := by
  rcases noteIncomplete_cases f (s.setFq rest) with ⟨bits, bytes, hn⟩ | hn <;> rw [hn] <;> rfl

/-- An agent's step leads to a state that differs only in what the agent may write. -/
theorem Effect.eq_overlay {s t : State} {a : Action} (h : Effect s a t) : t = Agent.overlay a.agent s t := by
  cases h with
  | waited => exact (Agent.overlay_self _ s).symm
  | loaded f rest => exact loaded_eq_overlay s f rest _
  | accepted | framed | packeted | popDropped | popDecoded | popHeld | ephAbandoned | ephDecoded | ephDropped
  | configured | configRead | wasReset | took => rfl

/-- Settles O49: each clause reads one element of the agent's overlay. -/
theorem eachElementHasItsWriters : Obligations.EachElementHasItsWriters := by
  unfold Obligations.EachElementHasItsWriters
  intro a s t ha h
  have ht : t = Agent.overlay a.agent s t := (exec_effect h).eq_overlay
  rw [ht]
  generalize a.agent = g at ha ⊢
  cases g with
  | rsth => exact absurd rfl ha
  | syn | pkz | dsp | snk | cfgh => simp [Agent.overlay]

end Sys2Proof.Machine
end

section
/-! The state after reset (10_state.md R35). -/

namespace Sys2Proof.Machine

/-- Settles O9: the values are those of `State.reset` and of the default parameters. -/
theorem resetStateValues : Obligations.ResetStateValues :=
  ⟨rfl, rfl, rfl, rfl, rfl, rfl, rfl, rfl, rfl⟩

theorem State.reset_inv : State.reset.Inv where
  window := Nat.zero_le _
  frames := nofun
  rest := nofun
  held := nofun
  records := nofun
  fqBound := nofun
  pqBound := nofun
  rqBound := nofun
  input := fun _ => le_rfl

theorem State.reset_depthsLegal : State.reset.depthsLegal := ⟨nofun, nofun, nofun⟩

theorem State.reset_followsBits : State.reset.FollowsBits := ⟨rfl, rfl⟩

theorem State.reset_accountsPackets : State.reset.AccountsPackets := ⟨nofun, [], .nil, rfl⟩

theorem State.reset_recordsSound : State.reset.RecordsSound := ⟨nofun, List.suffix_rfl, nofun⟩

/-- Settles O11: nothing has been accepted, pushed or dropped yet, so every invariant speaks of empty lists. -/
theorem resetMeetsInvariants : Obligations.ResetMeetsInvariants :=
  ⟨State.reset_inv, State.reset_depthsLegal, State.reset_followsBits, rfl, rfl,
    State.reset_accountsPackets, State.reset_recordsSound⟩

end Sys2Proof.Machine
end

section
/-! The block's ports: a bit taken in, the configuration address, symbols offered, and the head of `RQ` delivered
(10_state.md R28, R36, R37). -/

namespace Sys2Proof.Machine

theorem execSynBit_of_bit {s : State} {b : Bool} (hb : s.inBit = some b) (hroom : s.fqFull = false) :
    execSynBit s = execSyncMatch (acceptBit b s) := by
  simp [execSynBit, hb, hroom]

theorem execSyncMatch_of_room {s : State} (hroom : s.fqFull = false) :
    execSyncMatch s = .next (if windowMatches s.w then s.pushFrame s.w else s) := by
  unfold execSyncMatch
  rw [hroom]
  cases windowMatches s.w <;> rfl

/-- Settles O13: the bit is slid into the window, and then the window is matched. -/
theorem synBitTakesOneBit : Obligations.SynBitTakesOneBit := by
  unfold Obligations.SynBitTakesOneBit
  intro s b w' hbit hroom hw'
  have hslide : w' = slideWindow s.w b := hw'
  have hexec : exec .synBit s = execSyncMatch (acceptBit b s) :=
    execSynBit_of_bit (State.inBit_eq_some.mpr hbit) hroom
  have hroom' : (acceptBit b s).fqFull = false := hroom
  have hwindow : (acceptBit b s).w = w' := hslide.symm
  rw [hexec, execSyncMatch_of_room hroom', hwindow]
  cases windowMatches w' with
  | true => simp [acceptBit, State.pushFrame, State.setInPos, State.log, State.setW, State.setFq, hslide]
  | false => simp [acceptBit, State.setInPos, State.log, State.setW, hslide]

/-- Settles O44: address 0 is the only one either operation accepts. -/
theorem configurationPort : Obligations.ConfigurationPort := by
  unfold Obligations.ConfigurationPort
  refine ⟨fun s v => rfl, fun s => rfl, fun s addr v haddr => ⟨?_, ?_⟩⟩
  · exact if_neg haddr
  · exact if_neg haddr

/-- The reference's byte for a bit (30_encoding.md R70). -/
def symbolOfBit (b : Bool) : Byte := if b then 1#8 else 0#8

theorem bitsOfSymbols_cons_symbolOfBit (b : Bool) (vs : List Byte) :
    bitsOfSymbols (symbolOfBit b :: vs) = (bitsOfSymbols vs).map (b :: ·) := by
  cases b <;> cases h : bitsOfSymbols vs <;> simp [bitsOfSymbols, symbolOfBit, h, Except.map]

/-- Symbols of bits ahead of any bytes are read as those bits. -/
theorem bitsOfSymbols_append (l : List Bool) (vs : List Byte) :
    bitsOfSymbols (l.map symbolOfBit ++ vs) = (bitsOfSymbols vs).map (l ++ ·) := by
  induction l with
  | nil => cases h : bitsOfSymbols vs <;> simp [h, Except.map]
  | cons b l ih =>
    rw [List.map_cons, List.cons_append, bitsOfSymbols_cons_symbolOfBit, ih]
    cases bitsOfSymbols vs <;> rfl

theorem bitsOfSymbols_map (l : List Bool) : bitsOfSymbols (l.map symbolOfBit) = .ok l := by
  simpa [bitsOfSymbols, Except.map] using bitsOfSymbols_append l []

theorem bitsOfSymbols_bad (l : List Bool) {v : Byte} (rest : List Byte) (h0 : v ≠ 0#8) (h1 : v ≠ 1#8) :
    bitsOfSymbols (l.map symbolOfBit ++ v :: rest) = .error v := by
  have hv : bitsOfSymbols (v :: rest) = .error v := if_neg (not_or.mpr ⟨h0, h1⟩)
  rw [bitsOfSymbols_append, hv]; rfl

/-- Settles O45: symbols of bits are read as those bits, and the first other byte ends the reading. -/
theorem symbolsAreBits : Obligations.SymbolsAreBits := by
  unfold Obligations.SymbolsAreBits offerSymbols
  constructor
  · intro l s
    have hread : bitsOfSymbols (l.map fun b => if b then 1#8 else 0#8) = .ok l := bitsOfSymbols_map l
    simp [hread, State.offer]
  · intro l v rest s h0 h1
    have hread : bitsOfSymbols ((l.map fun b => if b then 1#8 else 0#8) ++ v :: rest) = .error v :=
      bitsOfSymbols_bad l rest h0 h1
    rw [hread]

/-- A list that fits its slots is carried whole (30_encoding.md R93, R94). -/
theorem portChans_of_length_le {n : Nat} {chans : List Chan} (h : chans.length ≤ n) :
    portChans n chans = ⟨chans.length, chans ++ List.replicate (n - chans.length) ⟨0, 0⟩⟩ := by
  rw [portChans, portSlots, List.take_of_length_le h]

/-- Settles O46: the port and `SNK_TAKE` both read the head of `RQ`, and a fitting channel list is carried whole. -/
theorem snkTakeDeliversHead : Obligations.SnkTakeDeliversHead := by
  unfold Obligations.SnkTakeDeliversHead
  refine ⟨fun s r rest hq => ⟨?_, ?_⟩, fun s hq => ?_, fun fi fc chans hlen => ?_, fun chans hlen => ?_⟩
  · simp [State.outPort, State.outRecord, hq]
  · simp [exec, execSnkTake, hq, State.setRq, State.log]
  · simp [State.outPort, State.outRecord, hq]
  · simp [Record.port, Record.rtype, PacketType.tag, Record.portBody, portChans_of_length_le hlen]
  · simp [Record.port, Record.rtype, PacketType.tag, Record.portBody, portChans_of_length_le hlen]

end Sys2Proof.Machine
end

section
/-! When each step of the block's agents and the sink is enabled (00_scope.md R11, 20_memory.md R63), and what its
operation then runs; a step that is not enabled waits. -/

namespace Sys2Proof.Machine

variable {s : State}

theorem enabled_synBit : enabled s .synBit = true ↔ (∃ b, s.inBit = some b) ∧ s.fqFull = false := by
  simp [enabled, ← s.inBit_isSome, Option.isSome_iff_exists]

theorem enabled_pkzLoad : enabled s .pkzLoad = true ↔ s.pzRem = none ∧ ∃ f rest, s.fq = f :: rest := by
  simp [enabled, ← List.ne_nil_iff_exists_cons]

theorem enabled_pkzEmit :
    enabled s .pkzEmit = true ↔ (∃ p rest, s.pzRem = some (p :: rest)) ∧ s.pqFull = false := by
  cases hrem : s.pzRem with
  | none => simp [enabled, hrem]
  | some ps => cases ps <;> simp [enabled, hrem]

theorem enabled_dspPop :
    enabled s .dspPop = true ↔ s.dsp = .idle ∧ (∃ a rest, s.pq = a :: rest) ∧ s.rqFull = false := by
  simp [enabled, ← List.ne_nil_iff_exists_cons, and_assoc]

theorem enabled_dspEph : enabled s .dspEph = true ↔ (∃ a, s.dsp = .ephPending a) ∧ s.rqFull = false := by
  cases hd : s.dsp <;> simp [enabled, hd]

theorem enabled_snkTake : enabled s .snkTake = true ↔ ∃ r rest, s.rq = r :: rest := by
  simp [enabled, ← List.ne_nil_iff_exists_cons]

theorem execPkzLoad_of_frame {f : Frame} {rest : List Frame} (hrem : s.pzRem = none) (hq : s.fq = f :: rest) :
    execPkzLoad s = .next ((noteIncomplete f (s.setFq rest)).setPzRem (remOf (packets f))) := by
  simp [execPkzLoad, hrem, hq]

theorem execPkzEmit_of_room {p : Packet} {rest : List Packet} (hrem : s.pzRem = some (p :: rest))
    (hroom : s.pqFull = false) : execPkzEmit s = .next ((s.pushPacket p).setPzRem (remOf rest)) := by
  simp [execPkzEmit, hrem, hroom]

theorem execDspPop_of_room {a : Packet} {rest : List Packet} (hd : s.dsp = .idle) (hq : s.pq = a :: rest)
    (hroom : s.rqFull = false) : execDspPop s = dispatchPacket a (s.setPq rest) := by
  simp [execDspPop, hd, hq, hroom]

theorem execDspEph_of_empty {a : Packet} (hd : s.dsp = .ephPending a) (hq : s.pq = []) (hroom : s.rqFull = false) :
    execDspEph s = .next ((s.setDsp .idle).raise (.reassemblyUnavailable a)) := by
  simp [execDspEph, hd, hq, hroom]

theorem execDspEph_of_follower {a b : Packet} {rest : List Packet} (hd : s.dsp = .ephPending a)
    (hq : s.pq = b :: rest) (hroom : s.rqFull = false) :
    execDspEph s = execDecEph a b ((s.setDsp .idle).setPq rest) := by
  simp [execDspEph, hd, hq, hroom]

theorem execSnkTake_of_record {r : Record} {rest : List Record} (hq : s.rq = r :: rest) :
    execSnkTake s = .next ((s.setRq rest).log (.delivered r)) := by
  simp [execSnkTake, hq]

theorem execSynBit_of_disabled (h : ¬enabled s .synBit = true) : execSynBit s = .next s := by
  unfold execSynBit
  split
  · rfl
  · next b hb =>
    split
    · rfl
    · next hfull => exact absurd (enabled_synBit.mpr ⟨⟨b, hb⟩, Bool.eq_false_iff.mpr hfull⟩) h

theorem execPkzLoad_of_disabled (h : ¬enabled s .pkzLoad = true) : execPkzLoad s = .next s := by
  unfold execPkzLoad
  split
  · next f rest hrem hq => exact absurd (enabled_pkzLoad.mpr ⟨hrem, f, rest, hq⟩) h
  · rfl

theorem execPkzEmit_of_disabled (h : ¬enabled s .pkzEmit = true) : execPkzEmit s = .next s := by
  unfold execPkzEmit
  split
  · next p rest hrem =>
    split
    · rfl
    · next hfull => exact absurd (enabled_pkzEmit.mpr ⟨⟨p, rest, hrem⟩, Bool.eq_false_iff.mpr hfull⟩) h
  · rfl

theorem execDspPop_of_disabled (h : ¬enabled s .dspPop = true) : execDspPop s = .next s := by
  unfold execDspPop
  split
  · next a rest hd hq =>
    split
    · rfl
    · next hfull => exact absurd (enabled_dspPop.mpr ⟨hd, ⟨a, rest, hq⟩, Bool.eq_false_iff.mpr hfull⟩) h
  · rfl

theorem execDspEph_of_disabled (h : ¬enabled s .dspEph = true) : execDspEph s = .next s := by
  unfold execDspEph
  split
  · rfl
  · next a hd =>
    split
    · rfl
    · next hfull => exact absurd (enabled_dspEph.mpr ⟨⟨a, hd⟩, Bool.eq_false_iff.mpr hfull⟩) h

theorem execSnkTake_of_disabled (h : ¬enabled s .snkTake = true) : execSnkTake s = .next s := by
  unfold execSnkTake
  split
  · next r rest hq => exact absurd (enabled_snkTake.mpr ⟨r, rest, hq⟩) h
  · rfl

/-- Settles O47: each operation waits on every path but the one its step's condition opens. -/
theorem disabledStepWaits : Obligations.DisabledStepWaits := by
  unfold Obligations.DisabledStepWaits
  intro s a h
  replace h : ¬enabled s a = true := Bool.eq_false_iff.mp h
  cases a with
  | synBit => exact execSynBit_of_disabled h
  | pkzLoad => exact execPkzLoad_of_disabled h
  | pkzEmit => exact execPkzEmit_of_disabled h
  | dspPop => exact execDspPop_of_disabled h
  | dspEph => exact execDspEph_of_disabled h
  | snkTake => exact execSnkTake_of_disabled h
  | cfgWrite | cfgRead | reset => exact absurd rfl h

end Sys2Proof.Machine
end

section
/-! The unbounded reference (00_scope.md R7, 20_memory.md R63). `State.unbounded` touches no element but the depths, so
every operation over the state commutes with it by definition; an operation that finds room asks nothing else of them. -/

namespace Sys2Proof.Machine

variable {s : State}

/-- The answer of an operation, with the state it leads to unbounded. -/
def unboundedResult : Result → Result
  | .next t => .next t.unbounded
  | .fault r => .fault r
  | .refused r => .refused r

theorem State.unbounded_fqFull (s : State) : s.unbounded.fqFull = false := rfl

theorem State.unbounded_rqFull (s : State) : s.unbounded.rqFull = false := rfl

/-- Backpressure disables a step and never enables one. -/
theorem enabled_unbounded {a : Action} (h : enabled s a = true) : enabled s.unbounded a = true := by
  cases a with
  | synBit =>
    obtain ⟨hbit, -⟩ := enabled_synBit.mp h
    exact enabled_synBit.mpr ⟨hbit, rfl⟩
  | pkzEmit =>
    obtain ⟨hrem, -⟩ := enabled_pkzEmit.mp h
    exact enabled_pkzEmit.mpr ⟨hrem, rfl⟩
  | dspPop =>
    obtain ⟨hd, hq, -⟩ := enabled_dspPop.mp h
    exact enabled_dspPop.mpr ⟨hd, hq, rfl⟩
  | dspEph =>
    obtain ⟨hd, -⟩ := enabled_dspEph.mp h
    exact enabled_dspEph.mpr ⟨hd, rfl⟩
  | pkzLoad | snkTake | cfgWrite | cfgRead | reset => exact h

theorem handleSingle_unbounded {ty : PacketType} {dec : Packet → Record} {p : Packet} (hroom : s.rqFull = false) :
    handleSingle ty dec p s.unbounded = unboundedResult (handleSingle ty dec p s) := by
  simp only [handleSingle, hroom, State.unbounded_rqFull, Bool.false_eq_true, if_false, apply_ite unboundedResult]
  rfl

theorem discardPacket_unbounded {p : Packet} (hroom : s.rqFull = false) :
    discardPacket p s.unbounded = unboundedResult (discardPacket p s) := by
  simp only [discardPacket, hroom, State.unbounded_rqFull, Bool.false_eq_true, if_false]
  rfl

theorem holdTrigger_unbounded (a : Packet) : holdTrigger a s.unbounded = unboundedResult (holdTrigger a s) := by
  simp only [holdTrigger, apply_ite unboundedResult]
  rfl

theorem execDecEph_unbounded {a b : Packet} (hroom : s.rqFull = false) :
    execDecEph a b s.unbounded = unboundedResult (execDecEph a b s) := by
  simp only [execDecEph, hroom, State.unbounded_rqFull, Bool.false_eq_true, if_false, apply_ite unboundedResult]
  rfl

theorem dispatchPacket_unbounded {a : Packet} (hroom : s.rqFull = false) :
    dispatchPacket a s.unbounded = unboundedResult (dispatchPacket a s) := by
  unfold dispatchPacket
  split
  · exact handleSingle_unbounded hroom
  · exact handleSingle_unbounded hroom
  · exact handleSingle_unbounded hroom
  · exact handleSingle_unbounded hroom
  · exact discardPacket_unbounded hroom
  · exact discardPacket_unbounded hroom
  · exact holdTrigger_unbounded a
  · exact handleSingle_unbounded hroom
  · exact discardPacket_unbounded hroom

theorem execSyncMatch_unbounded (hroom : s.fqFull = false) :
    execSyncMatch s.unbounded = unboundedResult (execSyncMatch s) := by
  simp only [execSyncMatch, hroom, State.unbounded_fqFull, Bool.false_eq_true, if_false, apply_ite unboundedResult]
  rfl

theorem noteIncomplete_unbounded (f : Frame) (s : State) :
    noteIncomplete f s.unbounded = (noteIncomplete f s).unbounded := by
  unfold noteIncomplete
  split <;> rfl

theorem execCfgWrite_unbounded (addr : Nat) (v : Byte) :
    execCfgWrite addr v s.unbounded = unboundedResult (execCfgWrite addr v s) := by
  unfold execCfgWrite
  split <;> rfl

theorem execCfgRead_unbounded (addr : Nat) :
    execCfgRead addr s.unbounded = unboundedResult (execCfgRead addr s) := by
  unfold execCfgRead
  split <;> rfl

/-- An enabled step runs in the unbounded reference as it does here, whatever it answers. -/
theorem exec_unbounded {a : Action} (h : enabled s a = true) :
    exec a.toInstr s.unbounded = unboundedResult (exec a.toInstr s) := by
  cases a with
  | synBit =>
    obtain ⟨⟨b, hbit⟩, hroom⟩ := enabled_synBit.mp h
    calc execSynBit s.unbounded = execSyncMatch (acceptBit b s.unbounded) := execSynBit_of_bit hbit rfl
      _ = unboundedResult (execSyncMatch (acceptBit b s)) := execSyncMatch_unbounded (s := acceptBit b s) hroom
      _ = unboundedResult (execSynBit s) := by rw [execSynBit_of_bit hbit hroom]
  | pkzLoad =>
    obtain ⟨hrem, f, rest, hq⟩ := enabled_pkzLoad.mp h
    calc execPkzLoad s.unbounded
        = .next ((noteIncomplete f (s.setFq rest).unbounded).setPzRem (remOf (packets f))) :=
          execPkzLoad_of_frame hrem hq
      _ = unboundedResult (execPkzLoad s) := by
          rw [execPkzLoad_of_frame hrem hq, noteIncomplete_unbounded]; rfl
  | pkzEmit =>
    obtain ⟨⟨p, rest, hrem⟩, hroom⟩ := enabled_pkzEmit.mp h
    calc execPkzEmit s.unbounded = .next ((s.unbounded.pushPacket p).setPzRem (remOf rest)) :=
          execPkzEmit_of_room hrem rfl
      _ = unboundedResult (execPkzEmit s) := by rw [execPkzEmit_of_room hrem hroom]; rfl
  | dspPop =>
    obtain ⟨hd, ⟨p, rest, hq⟩, hroom⟩ := enabled_dspPop.mp h
    calc execDspPop s.unbounded = dispatchPacket p (s.setPq rest).unbounded := execDspPop_of_room hd hq rfl
      _ = unboundedResult (dispatchPacket p (s.setPq rest)) := dispatchPacket_unbounded (s := s.setPq rest) hroom
      _ = unboundedResult (execDspPop s) := by rw [execDspPop_of_room hd hq hroom]
  | dspEph =>
    obtain ⟨⟨p, hd⟩, hroom⟩ := enabled_dspEph.mp h
    cases hq : s.pq with
    | nil =>
      calc execDspEph s.unbounded = .next ((s.unbounded.setDsp .idle).raise (.reassemblyUnavailable p)) :=
            execDspEph_of_empty hd hq rfl
        _ = unboundedResult (execDspEph s) := by rw [execDspEph_of_empty hd hq hroom]; rfl
    | cons b rest =>
      calc execDspEph s.unbounded = execDecEph p b ((s.setDsp .idle).setPq rest).unbounded :=
            execDspEph_of_follower hd hq rfl
        _ = unboundedResult (execDecEph p b ((s.setDsp .idle).setPq rest)) :=
            execDecEph_unbounded (s := (s.setDsp .idle).setPq rest) hroom
        _ = unboundedResult (execDspEph s) := by rw [execDspEph_of_follower hd hq hroom]
  | cfgWrite addr v => exact execCfgWrite_unbounded addr v
  | cfgRead addr => exact execCfgRead_unbounded addr
  | reset => rfl
  | snkTake =>
    obtain ⟨r, rest, hq⟩ := enabled_snkTake.mp h
    calc execSnkTake s.unbounded = .next ((s.unbounded.setRq rest).log (.delivered r)) :=
          execSnkTake_of_record hq
      _ = unboundedResult (execSnkTake s) := by rw [execSnkTake_of_record hq]; rfl

/-- Settles O51: an enabled step stays enabled without depths, and its operation commutes with lifting them. -/
theorem boundedStepIsReferenceStep : Obligations.BoundedStepIsReferenceStep := by
  unfold Obligations.BoundedStepIsReferenceStep
  intro s t a henabled h
  exact ⟨enabled_unbounded henabled, by rw [exec_unbounded henabled, h]; rfl⟩

end Sys2Proof.Machine
end

section
/-! Conservation and order between the channels (20_memory.md R57, R58, R64, 41_packetizer.md R147). -/

namespace Sys2Proof.Machine

variable {s t : State}

@[simp] theorem acceptBit_trace (b : Bool) (s : State) : (acceptBit b s).trace = s.trace ++ [.bit b] := rfl

@[simp] theorem acceptBit_fq (b : Bool) (s : State) : (acceptBit b s).fq = s.fq := rfl

@[simp] theorem acceptBit_pzRem (b : Bool) (s : State) : (acceptBit b s).pzRem = s.pzRem := rfl

@[simp] theorem acceptBit_rq (b : Bool) (s : State) : (acceptBit b s).rq = s.rq := rfl

/-- The invariant does not speak of the schedule. -/
theorem State.FollowsFrames.of_sameBlock (h : s.FollowsFrames) (hst : s.SameBlock t) : t.FollowsFrames := by
  rw [hst]; exact h

theorem State.FollowsRecords.of_sameBlock (h : s.FollowsRecords) (hst : s.SameBlock t) : t.FollowsRecords := by
  rw [hst]; exact h

/-- A frame pushed adds its packets at both ends of the account; a load and an emission move packets along it. -/
theorem Effect.keeps_followsFrames {a : Action} (h : Effect s a t) (hs : s.FollowsFrames) : t.FollowsFrames := by
  unfold State.FollowsFrames at hs ⊢
  cases h with
  | waited => exact hs
  | framed b => simp [← hs]
  | loaded f rest hrem hq =>
    rcases noteIncomplete_cases f (s.setFq rest) with ⟨bits, bytes, hn⟩ | hn <;> simpa [hn, hrem, hq] using hs
  | packeted p rest hrem => simpa [hrem] using hs
  | wasReset => rfl
  | accepted | popDropped | popDecoded | popHeld | ephAbandoned | ephDecoded | ephDropped | configured | configRead
  | took => simpa using hs

/-- A record pushed stands at both ends of the account; a delivery moves one along it. -/
theorem Effect.keeps_followsRecords {a : Action} (h : Effect s a t) (hs : s.FollowsRecords) : t.FollowsRecords := by
  unfold State.FollowsRecords at hs ⊢
  cases h with
  | waited => exact hs
  | popDecoded | ephDecoded => simp [← hs]
  | took r rest hq => simpa [hq] using hs
  | wasReset => rfl
  | loaded f rest =>
    rcases noteIncomplete_cases f (s.setFq rest) with ⟨bits, bytes, hn⟩ | hn <;> simpa [hn] using hs
  | accepted | framed | packeted | popDropped | popHeld | ephAbandoned | ephDropped | configured
  | configRead => simpa using hs

/-- Settles O54: a step is the effect of a scheduled action, and each effect keeps the account of frames. -/
theorem stepFollowsFrames : Obligations.StepFollowsFrames := by
  unfold Obligations.StepFollowsFrames
  intro s t hs h
  obtain ⟨a, u, hblock, heffect⟩ := step_effect h
  exact heffect.keeps_followsFrames (hs.of_sameBlock hblock)

/-- Settles O55: a step is the effect of a scheduled action, and each effect keeps the account of records. -/
theorem stepFollowsRecords : Obligations.StepFollowsRecords := by
  unfold Obligations.StepFollowsRecords
  intro s t hs h
  obtain ⟨a, u, hblock, heffect⟩ := step_effect h
  exact heffect.keeps_followsRecords (hs.of_sameBlock hblock)

end Sys2Proof.Machine
end

section
/-! Bits of a frame and of its packets (20_memory.md R53, R54, 41_packetizer.md R141, R142). -/

namespace Sys2Proof.Machine

/-- Bit `i` of the value of a bit sequence is the sequence's bit `i`. -/
theorem testBit_bitsVal (l : List Bool) (i : Nat) : (bitsVal l).testBit i = l.getD i false := by
  induction l generalizing i with
  | nil => simp [bitsVal]
  | cons b l ih =>
    cases i with
    | zero => cases b <;> simp [bitsVal]
    | succ i =>
      have hhalf : (b.toNat + 2 * bitsVal l) / 2 = bitsVal l := by have := b.toNat_lt; omega
      simp [bitsVal, Nat.testBit_succ, hhalf, ih]

/-- Bit `i` of byte `j` of a frame is bit `8j + i` of the frame, least significant first (41_packetizer.md R141). -/
theorem getLsbD_byteAt (f : Frame) (j : Nat) {i : Nat} (hi : i < 8) :
    (byteAt f j).getLsbD i = f.getD (8 * j + i) false := by
  have hslice : (slice f (8 * j) (8 * j + 8))[i]? = f[8 * j + i]? := by simp [slice, hi]
  unfold byteAt
  rw [BitVec.getLsbD_ofNat, testBit_bitsVal, List.getD_eq_getElem?_getD, hslice]
  simp [hi]

/-- The bytes of packet `k` are bytes `12k` to `12k + 11` of the frame (41_packetizer.md R142). -/
theorem packetAt_bytes (f : Frame) (k : Nat) :
    (packetAt f k).bytes = (List.range 12).map fun m => byteAt f (12 * k + m) := rfl

theorem packetAt_bytes_getElem? (f : Frame) (k : Nat) {m : Nat} (hm : m < 12) :
    (packetAt f k).bytes[m]? = some (byteAt f (12 * k + m)) := by
  simp [packetAt_bytes, hm]

/-- A whole packet stands inside the frame (41_packetizer.md R142). -/
theorem packet_end_le_length {f : Frame} {k : Nat} (hk : k < npackets f) : 96 * k + 96 ≤ f.length := by
  unfold npackets nbytes at hk
  omega

/-- Settles O20: bit `n` of a packet is bit `n mod 8` of its byte `n div 8`, which is byte `12k + n div 8` of the frame. -/
theorem packetBitIsFrameBit : Obligations.PacketBitIsFrameBit := by
  unfold Obligations.PacketBitIsFrameBit
  intro f k n hk hn
  have hlt : 96 * k + n < f.length := by have := packet_end_le_length hk; omega
  have hindex : 8 * (12 * k + n / 8) + n % 8 = 96 * k + n := by omega
  have hbit : bitAt (packetAt f k).bytes n = f.getD (96 * k + n) false := by
    unfold bitAt
    rw [packetAt_bytes_getElem? f k (by omega)]
    simp only [getLsbD_byteAt f _ (Nat.mod_lt n (by decide)), hindex]
  rw [hbit, List.getD_eq_getElem _ _ hlt, List.getElem?_eq_getElem hlt]

end Sys2Proof.Machine
end

section
/-! Decoding and encoding are inverse (30_encoding.md R75, R77): what the head of a byte sequence, a byte sequence and a
window decode to, each said once in terms of `encode` and `wellFormed`. -/

namespace Sys2Proof.Machine

theorem typeOfTag_eq_some_iff {b : Byte} {t : PacketType} : typeOfTag b = some t ↔ b = t.tag := by
  constructor
  · intro h
    unfold typeOfTag at h
    split_ifs at h with hb hb hb hb hb hb hb hb <;> cases h <;> exact hb
  · rintro rfl
    cases t <;> rfl

theorem Packet.hasType_iff {p : Packet} {t : PacketType} : p.hasType t = true ↔ typeOfTag p.b0 = some t :=
  decide_eq_true_iff

/-- Twelve bytes or more begin with a packet (30_encoding.md R74). -/
theorem exists_packet_append_of_length_ge {l : List Byte} (h : 12 ≤ l.length) :
    ∃ (p : Packet) (rest : List Byte), l = p.bytes ++ rest := by
  match l, h with
  | b0 :: b1 :: b2 :: b3 :: b4 :: b5 :: b6 :: b7 :: b8 :: b9 :: b10 :: b11 :: rest, _ =>
    exact ⟨⟨b0, b1, b2, b3, b4, b5, b6, b7, b8, b9, b10, b11⟩, rest, rfl⟩

theorem takePacket_eq_some_iff {l rest : List Byte} {p : Packet} :
    takePacket l = some (p, rest) ↔ l = p.bytes ++ rest := by
  constructor
  · intro h
    unfold takePacket at h
    split at h <;> cases h
    rfl
  · rintro rfl
    exact takePacket_bytes p rest

theorem decode_bytes_eq_ok_iff {l : List Byte} {i : Instr} :
    decode (.bytes l) = .ok i ↔ decodeBytes l = .ok (i, []) := by
  cases h : decodeBytes l with
  | error e => simp [decode, h]
  | ok r =>
    obtain ⟨j, rest⟩ := r
    cases rest with
    | nil => simp [decode, h]
    | cons b rest => simp [decode, h]

/-- The words of a well-formed operation are read off the head of a byte sequence. -/
theorem decodeBytes_of_encode {i : Instr} {l : List Byte} (hwf : i.wellFormed = true)
    (he : encode i = some (.bytes l)) (rest : List Byte) : decodeBytes (l ++ rest) = .ok (i, rest) := by
  cases i with
  | decSync p | decMsg p | decUpl p | decDnl p | discNc p | discFill p | decEle p =>
    cases he
    simp [decodeBytes, Packet.hasType_iff.mp hwf]
  | discUnk p =>
    cases he
    simp [decodeBytes, of_decide_eq_true hwf]
  | decEph a b =>
    cases he
    simp [decodeBytes, Packet.hasType_iff.mp hwf]
  | syncMatch | synBit | pkzLoad | pkzEmit | dspPop | dspEph | cfgWrite | cfgRead | reset | snkTake => cases he

/-- What is read off the head of a byte sequence is a well-formed operation whose words stand there. -/
theorem encode_of_decodeBytes {i : Instr} {l rest : List Byte} (h : decodeBytes l = .ok (i, rest)) :
    i.wellFormed = true ∧ ∃ words, encode i = some (.bytes words) ∧ l = words ++ rest := by
  unfold decodeBytes at h
  split at h
  · cases h
  · next a rest' ha =>
    obtain rfl := takePacket_eq_some_iff.mp ha
    cases ht : typeOfTag a.b0 with
    | none =>
      rw [ht] at h
      cases h
      exact ⟨decide_eq_true ht, _, rfl, rfl⟩
    | some t =>
      have hwf : a.hasType t = true := Packet.hasType_iff.mpr ht
      rw [ht] at h
      cases t with
      | synchronization | message | uplink | downlink | networkControl | fill | elements =>
        cases h
        exact ⟨hwf, _, rfl, rfl⟩
      | ephemeris =>
        dsimp only at h
        split at h
        · next b rest'' hb =>
          obtain rfl := takePacket_eq_some_iff.mp hb
          cases h
          exact ⟨hwf, _, rfl, (List.append_assoc ..).symm⟩
        · cases h

/-- Exactly the words of a well-formed operation decode to it. -/
theorem decode_bytes_iff_encode {i : Instr} {l : List Byte} :
    decode (.bytes l) = .ok i ↔ i.wellFormed = true ∧ encode i = some (.bytes l) := by
  rw [decode_bytes_eq_ok_iff]
  constructor
  · intro h
    obtain ⟨hwf, words, he, rfl⟩ := encode_of_decodeBytes h
    exact ⟨hwf, by rw [he, List.append_nil]⟩
  · rintro ⟨hwf, he⟩
    simpa using decodeBytes_of_encode hwf he []

theorem encode_eq_window_iff {i : Instr} {w : List Bool} :
    encode i = some (.window w) ↔ i = .syncMatch ∧ w = syncWord := by
  cases i <;> simp [encode, eq_comm]

/-- A window decodes just when it begins with the sync word (40_frame_sync.md R125). -/
theorem decodeWindow_eq_ok_iff {w : List Bool} {i : Instr} :
    decodeWindow w = .ok i ↔ i = .syncMatch ∧ syncWord <+: w := by
  have hlen : syncWord.length = 24 := rfl
  unfold decodeWindow
  rw [List.prefix_iff_eq_take, hlen]
  split
  · next hshort =>
    have hne : syncWord ≠ w.take 24 := fun h => by
      have := congrArg List.length h
      rw [List.length_take, hlen] at this
      omega
    simp [hne]
  · split
    · next hsync => simp [hsync, eq_comm]
    · next hsync => simp [Ne.symm hsync]

/-- Settles O6: bytes by the iff of decoding and encoding, a window because the sync word is its own 24 oldest bits. -/
theorem decodeOfEncodeIsIdentity : Obligations.DecodeOfEncodeIsIdentity := by
  unfold Obligations.DecodeOfEncodeIsIdentity
  intro i ws hwf he
  cases ws with
  | bytes l => exact decode_bytes_iff_encode.mpr ⟨hwf, he⟩
  | window w =>
    obtain ⟨rfl, rfl⟩ := encode_eq_window_iff.mp he
    exact decodeWindow_eq_ok_iff.mpr ⟨rfl, List.prefix_rfl⟩

/-- Settles O7: bytes by the iff of decoding and encoding, a window by its oldest bits. -/
theorem encodeOfDecodeIsIdentity : Obligations.EncodeOfDecodeIsIdentity := by
  unfold Obligations.EncodeOfDecodeIsIdentity
  refine ⟨fun l i h => decode_bytes_iff_encode.mp h, fun w i => ?_⟩
  have hwindow : decode (.window w) = decodeWindow w := rfl
  rw [hwindow, decodeWindow_eq_ok_iff]
  simp [List.IsPrefix, eq_comm]

/-- Every packet whose tag is not that of an ephemeris trigger is the words of an operation (30_encoding.md R76). -/
theorem exists_encode_packet {p : Packet} (h : typeOfTag p.b0 ≠ some .ephemeris) :
    ∃ i : Instr, i.wellFormed = true ∧ encode i = some (.bytes p.bytes) := by
  cases ht : typeOfTag p.b0 with
  | none => exact ⟨.discUnk p, decide_eq_true ht, rfl⟩
  | some t =>
    have hwf : p.hasType t = true := Packet.hasType_iff.mpr ht
    cases t with
    | synchronization => exact ⟨.decSync p, hwf, rfl⟩
    | message => exact ⟨.decMsg p, hwf, rfl⟩
    | uplink => exact ⟨.decUpl p, hwf, rfl⟩
    | downlink => exact ⟨.decDnl p, hwf, rfl⟩
    | networkControl => exact ⟨.discNc p, hwf, rfl⟩
    | fill => exact ⟨.discFill p, hwf, rfl⟩
    | ephemeris => exact absurd ht h
    | elements => exact ⟨.decEle p, hwf, rfl⟩

theorem exists_packet_of_length {l : List Byte} (h : l.length = 12) : ∃ p : Packet, l = p.bytes := by
  obtain ⟨p, rest, rfl⟩ := exists_packet_append_of_length_ge h.ge
  have hrest : rest = [] := List.eq_nil_of_length_eq_zero (by simpa using h)
  exact ⟨p, by rw [hrest, List.append_nil]⟩

/-- Settles O8: a packet of any other tag is the words of some operation, a trigger and its follower those
of `DEC_EPH`. -/
theorem everyTagDecodes : Obligations.EveryTagDecodes := by
  unfold Obligations.EveryTagDecodes
  constructor
  · intro l hlen htag
    obtain ⟨p, rfl⟩ := exists_packet_of_length hlen
    have hp : typeOfTag p.b0 ≠ some .ephemeris := fun ht =>
      htag (congrArg some (typeOfTag_eq_some_iff.mp ht))
    obtain ⟨i, hi⟩ := exists_encode_packet hp
    exact ⟨i, decode_bytes_iff_encode.mpr hi⟩
  · intro l hlen htag
    obtain ⟨a, rest, rfl⟩ := exists_packet_append_of_length_ge (by omega : 12 ≤ l.length)
    have hrest : rest.length = 12 := by rw [List.length_append, Packet.bytes_length] at hlen; omega
    obtain ⟨b, rfl⟩ := exists_packet_of_length hrest
    have ha : typeOfTag a.b0 = some .ephemeris := typeOfTag_eq_some_iff.mpr (Option.some_inj.mp htag)
    exact ⟨a, b, decode_bytes_iff_encode.mpr ⟨Packet.hasType_iff.mpr ha, rfl⟩⟩

/-- Settles O5: closed words, each decoded by evaluation. -/
theorem vectorWordsDecode : Obligations.VectorWordsDecode :=
  ⟨rfl, rfl, rfl, rfl, rfl, rfl, rfl, rfl, rfl, rfl, rfl, rfl, rfl⟩

end Sys2Proof.Machine
end

section
/-! The operation a packet decodes to is the one the dispatcher runs (30_encoding.md R75, R77, 42_checksum_dispatch.md
R168, R171). -/

namespace Sys2Proof.Machine

/-- The operation whose words a packet is is the one its tag hands it to. -/
theorem dispatchPacket_eq_exec {i : Instr} {a : Packet} (hwf : i.wellFormed = true)
    (he : encode i = some (.bytes a.bytes)) (s : State) : dispatchPacket a s = exec i s := by
  cases i with
  | decSync p | decMsg p | decUpl p | decDnl p | discNc p | discFill p | decEle p =>
    obtain rfl : p = a := Packet.bytes_injective (by simpa [encode] using he)
    simp [dispatchPacket, Packet.hasType_iff.mp hwf, exec]
  | discUnk p =>
    obtain rfl : p = a := Packet.bytes_injective (by simpa [encode] using he)
    simp [dispatchPacket, of_decide_eq_true hwf, exec]
  | decEph p q => simp [encode, Packet.bytes] at he
  | syncMatch | synBit | pkzLoad | pkzEmit | dspPop | dspEph | cfgWrite | cfgRead | reset | snkTake => cases he

/-- Two packets are the words of their ephemeris pair and of no other operation. -/
theorem eq_decEph_of_encode {i : Instr} {a b : Packet} (he : encode i = some (.bytes (a.bytes ++ b.bytes))) :
    i = .decEph a b := by
  cases i with
  | decEph p q =>
    have hbytes : p.bytes ++ q.bytes = a.bytes ++ b.bytes := by simpa [encode] using he
    obtain ⟨hp, hq⟩ := List.append_inj hbytes rfl
    rw [Packet.bytes_injective hp, Packet.bytes_injective hq]
  | decSync | decMsg | decUpl | decDnl | discNc | discFill | decEle | discUnk => simp [encode, Packet.bytes] at he
  | syncMatch | synBit | pkzLoad | pkzEmit | dspPop | dspEph | cfgWrite | cfgRead | reset | snkTake => cases he

/-- Settles O2: `DSP_POP` hands the packet to the operation its tag selects, which is the one it decodes to. -/
theorem stepRunsDecodedPacket : Obligations.StepRunsDecodedPacket := by
  unfold Obligations.StepRunsDecodedPacket
  intro s more a rest i hsched hd hq hroom hdecode
  obtain ⟨hwf, he⟩ := decode_bytes_iff_encode.mp hdecode
  calc step s = execDspPop { s with sched := more } := stepTakesScheduledAction.1 s _ more hsched
    _ = dispatchPacket a { s with sched := more, pq := rest } := execDspPop_of_room hd hq hroom
    _ = exec i { s with sched := more, pq := rest } := dispatchPacket_eq_exec hwf he _

/-- Settles O3: `DSP_EPH` runs `DEC_EPH` on the pair, the only operation whose words the pair is. -/
theorem stepRunsDecodedPair : Obligations.StepRunsDecodedPair := by
  unfold Obligations.StepRunsDecodedPair
  intro s more a b rest i hsched hd hq hroom hdecode
  obtain ⟨-, he⟩ := decode_bytes_iff_encode.mp hdecode
  obtain rfl := eq_decEph_of_encode he
  calc step s = execDspEph { s with sched := more } := stepTakesScheduledAction.1 s _ more hsched
    _ = execDecEph a b { s with sched := more, dsp := .idle, pq := rest } := execDspEph_of_follower hd hq hroom

end Sys2Proof.Machine
end

section
/-! The first bytes of a frame (30_encoding.md R73) and the check bytes of a packet (R74). -/

namespace Sys2Proof.Machine

theorem slice_append_of_le {α : Type} {l : List α} (m : List α) {a b : Nat} (h : b ≤ l.length) :
    slice (l ++ m) a b = slice l a b := by
  unfold slice
  rcases Nat.le_total a b with hab | hba
  · rw [List.drop_append_of_le_length (hab.trans h), List.take_append_of_le_length (by rw [List.length_drop]; omega)]
  · simp [Nat.sub_eq_zero_of_le hba]

/-- A byte within the first bits of a sequence is a byte of those bits (41_packetizer.md R141). -/
theorem byteAt_append_of_le {l : List Bool} (m : List Bool) {j : Nat} (h : 8 * j + 8 ≤ l.length) :
    byteAt (l ++ m) j = byteAt l j := by
  rw [byteAt, byteAt, slice_append_of_le m h]

/-- The sync word as three bytes, least significant bit first (30_encoding.md R72). -/
theorem byteAt_syncWord :
    byteAt syncWord 0 = 0x65#8 ∧ byteAt syncWord 1 = 0xA8#8 ∧ byteAt syncWord 2 = 0xF9#8 := by
  decide

theorem packets_eq_cons {f : Frame} (h : 96 ≤ f.length) : ∃ ps, packets f = packetAt f 0 :: ps := by
  obtain ⟨n, hn⟩ : ∃ n, npackets f = n + 1 := Nat.exists_eq_add_one.mpr (by unfold npackets nbytes; omega)
  simp [packets, hn, List.range_succ_eq_map]

/-- Settles O21: packet 0 begins with bytes 0 to 2 of the frame, which are those of the sync word. -/
theorem framePacketZeroIsSync : Obligations.FramePacketZeroIsSync := by
  unfold Obligations.FramePacketZeroIsSync
  intro f hf hlen
  obtain ⟨-, -, hsync⟩ := hf
  obtain ⟨ps, hps⟩ := packets_eq_cons hlen
  obtain ⟨h0, h1, h2⟩ := byteAt_syncWord
  have hbyte {j : Nat} (hj : 8 * j + 8 ≤ 24) : byteAt f j = byteAt syncWord j := by
    rw [← List.take_append_drop 24 f, hsync, byteAt_append_of_le _ hj]
  exact ⟨packetAt f 0, ps, hps, (hbyte (by decide)).trans h0, (hbyte (by decide)).trans h1,
    (hbyte (by decide)).trans h2⟩

theorem fletcherSums_append_pair (bs : List Byte) (x y : Byte) :
    fletcherSums (bs ++ [x, y]) = fletcherByte (fletcherByte (fletcherSums bs) x) y :=
  fletcherSums_append bs [x, y]

theorem fletcherSums_lt (bs : List Byte) : (fletcherSums bs).1 < 256 ∧ (fletcherSums bs).2 < 256 := by
  induction bs using List.reverseRecOn with
  | nil => decide
  | append_singleton bs b =>
    rw [fletcherSums_append]
    exact ⟨Nat.mod_lt _ (by decide), Nat.mod_lt _ (by decide)⟩

/-- Settles O26: two bytes take the sums to zero just when the first is minus their sum and the second the
second sum. -/
theorem checkBytesAreUnique : Obligations.CheckBytesAreUnique := by
  unfold Obligations.CheckBytesAreUnique valid checkBytes
  intro bs x y
  rw [decide_eq_true_iff, fletcher_eq_zero, fletcherSums_append_pair]
  have hlt := fletcherSums_lt bs
  generalize fletcherSums bs = sums at hlt ⊢
  obtain ⟨s1, s2⟩ := sums
  have hx := x.isLt
  have hy := y.isLt
  simp only [fletcherByte, Prod.mk.injEq, List.cons.injEq, and_true, BitVec.toNat_eq, BitVec.toNat_ofNat]
  omega

end Sys2Proof.Machine
end

section
/-! Bit fields of bytes (20_memory.md R54), and those of the default ephemeris layout (30_encoding.md R84). -/

namespace Sys2Proof.Machine

/-- Bit `n` of a little-endian value is bit `n mod 8` of byte `n div 8` (00_scope.md R10, 20_memory.md R54). -/
theorem testBit_le (l : List Byte) (n : Nat) : (le l).testBit n = (l.getD (n / 8) 0).getLsbD (n % 8) := by
  induction l generalizing n with
  | nil => simp [le]
  | cons b l ih =>
    have hb : b.toNat < 2 ^ 8 := b.isLt
    have hle : le (b :: l) = 2 ^ 8 * le l + b.toNat := by rw [le]; omega
    rw [hle, Nat.testBit_two_pow_mul_add _ hb]
    split
    · next hn => simp [Nat.div_eq_of_lt hn, Nat.mod_eq_of_lt hn, BitVec.testBit_toNat]
    · next hn =>
      obtain ⟨m, rfl⟩ := Nat.exists_eq_add_of_le (Nat.le_of_not_lt hn)
      have hdiv : (8 + m) / 8 = m / 8 + 1 := by omega
      simp [ih, hdiv]

theorem bitAt_of_lt {bs : List Byte} {n : Nat} (h : n < 8 * bs.length) :
    bitAt bs n = (bs.getD (n / 8) 0).getLsbD (n % 8) := by
  have hget : bs[n / 8]? = some bs[n / 8] := List.getElem?_eq_getElem (by omega)
  simp [bitAt, hget]

theorem testBit_field (bs : List Byte) (o w i : Nat) :
    (field bs o w).testBit i = (decide (i < w) && bitAt bs (o + i)) := by
  rw [field, testBit_bitsVal]
  by_cases h : i < w <;> simp [h]

/-- A field from bit `r` of byte `k` is cut out of the little-endian value of the `n` bytes it stands in
(20_memory.md R54). -/
theorem field_eq_le_slice {bs : List Byte} {k r w n : Nat} (hw : r + w ≤ 8 * n) (hn : k + n ≤ bs.length) :
    field bs (8 * k + r) w = le (slice bs k (k + n)) / 2 ^ r % 2 ^ w := by
  refine Nat.eq_of_testBit_eq fun i => ?_
  rw [testBit_field, Nat.testBit_mod_two_pow, Nat.testBit_div_two_pow, testBit_le]
  by_cases hi : i < w
  · have hdiv : (8 * k + r + i) / 8 = k + (i + r) / 8 := by omega
    have hmod : (8 * k + r + i) % 8 = (i + r) % 8 := by omega
    have hslice : (slice bs k (k + n))[(i + r) / 8]? = bs[k + (i + r) / 8]? := by
      simp [slice, show (i + r) / 8 < n by omega]
    rw [bitAt_of_lt (by omega), hdiv, hmod, List.getD_eq_getElem?_getD, List.getD_eq_getElem?_getD, hslice]
  · simp [hi]

/-- A field of 20 bits that begins a byte: two bytes and the low nibble of a third (30_encoding.md R84). -/
theorem field_20_of_low {bs : List Byte} {k : Nat} {b0 b1 b2 : Byte} (h : slice bs k (k + 3) = [b0, b1, b2])
    (hlen : k + 3 ≤ bs.length) :
    field bs (8 * k) 20 = b0.toNat + 256 * b1.toNat + 65536 * (b2.toNat % 16) := by
  have hfield := field_eq_le_slice (r := 0) (w := 20) (by decide) hlen
  have h0 := b0.isLt
  have h1 := b1.isLt
  rw [Nat.add_zero, h] at hfield
  rw [hfield]
  simp only [le]
  omega

/-- A field of 20 bits that begins in the middle of a byte: its high nibble and two bytes (30_encoding.md R84). -/
theorem field_20_of_high {bs : List Byte} {k : Nat} {b0 b1 b2 : Byte} (h : slice bs k (k + 3) = [b0, b1, b2])
    (hlen : k + 3 ≤ bs.length) :
    field bs (8 * k + 4) 20 = b0.toNat / 16 + 16 * b1.toNat + 4096 * b2.toNat := by
  have h0 := b0.isLt
  have h1 := b1.isLt
  have h2 := b2.isLt
  rw [field_eq_le_slice (r := 4) (w := 20) (by decide) hlen, h]
  simp only [le]
  omega

/-- Settles O41: the six fields begin at bytes 2, 4, 7, 9, 12 and 14, by turns at the low and the high nibble. -/
theorem defaultLayoutClosedForms : Obligations.DefaultLayoutClosedForms := by
  unfold Obligations.DefaultLayoutClosedForms
  intro a b
  have hlen {k : Nat} (hk : k ≤ 21) : k + 3 ≤ (a.bytes ++ b.bytes).length := by simp; omega
  rw [rawFields, Six.mk.injEq]
  exact ⟨field_20_of_low (k := 2) rfl (hlen (by decide)), field_20_of_high (k := 4) rfl (hlen (by decide)),
    field_20_of_low (k := 7) rfl (hlen (by decide)), field_20_of_high (k := 9) rfl (hlen (by decide)),
    field_20_of_low (k := 12) rfl (hlen (by decide)), field_20_of_high (k := 14) rfl (hlen (by decide))⟩

end Sys2Proof.Machine
end

section
/-! The widths of the ephemeris record under the default layout (30_encoding.md R95). -/

namespace Sys2Proof.Machine

/-- A raw field of 20 bits is centred on zero and scaled (44_decoders_orbit.md R235). -/
theorem abs_scaleWord_le {r : Nat} (hr : r < 2 ^ 20) {scale : Int} (hscale : 0 ≤ scale) :
    |scaleWord r scale| ≤ scale * 2 ^ 20 := by
  have hword : |2 * (r : Int) - 2 ^ 20| ≤ 2 ^ 20 := abs_le.mpr ⟨by omega, by omega⟩
  rw [scaleWord, abs_mul, abs_of_nonneg hscale]
  exact mul_le_mul_of_nonneg_left hword hscale

theorem isqrt_lt {n k : Nat} (h : n < k * k) : isqrt n < k :=
  Nat.mul_self_lt_mul_self_iff.mp ((isqrtIsFloorOfSqrt n).1.trans_lt h)

/-- Three axes within `m` have a norm below `k` where `3 m ^ 2 < k ^ 2` (44_decoders_orbit.md R246, R247). -/
theorem axesNorm_lt {v : Axes Int} {m : Int} {k : Nat} (hx : |v.x| ≤ m) (hy : |v.y| ≤ m) (hz : |v.z| ≤ m)
    (hk : 3 * (m * m) < k * k) : axesNorm v < k := by
  have hsum : v.x * v.x + v.y * v.y + v.z * v.z < k * k := by
    have hxx := abs_le_iff_mul_self_le.mp (hx.trans (le_abs_self m))
    have hyy := abs_le_iff_mul_self_le.mp (hy.trans (le_abs_self m))
    have hzz := abs_le_iff_mul_self_le.mp (hz.trans (le_abs_self m))
    linarith
  have hnonneg : 0 ≤ v.x * v.x + v.y * v.y + v.z * v.z :=
    add_nonneg (add_nonneg (mul_self_nonneg _) (mul_self_nonneg _)) (mul_self_nonneg _)
  exact isqrt_lt ((Int.toNat_lt hnonneg).mpr hsum)

theorem abs_ephPos_le {raw : Six Nat} (hraw : rawWf defaultEphLayout raw) :
    |(ephPos raw).x| ≤ scalePos * 2 ^ 20 ∧ |(ephPos raw).y| ≤ scalePos * 2 ^ 20 ∧
      |(ephPos raw).z| ≤ scalePos * 2 ^ 20 := by
  obtain ⟨hx, hy, hz, -, -, -⟩ := hraw
  have hscale : 0 ≤ scalePos := by decide
  exact ⟨abs_scaleWord_le hx hscale, abs_scaleWord_le hy hscale, abs_scaleWord_le hz hscale⟩

theorem abs_ephVel_le {raw : Six Nat} (hraw : rawWf defaultEphLayout raw) :
    |(ephVel raw).x| ≤ scaleVel * 2 ^ 20 ∧ |(ephVel raw).y| ≤ scaleVel * 2 ^ 20 ∧
      |(ephVel raw).z| ≤ scaleVel * 2 ^ 20 := by
  obtain ⟨-, -, -, hx, hy, hz⟩ := hraw
  have hscale : 0 ≤ scaleVel := by decide
  exact ⟨abs_scaleWord_le hx hscale, abs_scaleWord_le hy hscale, abs_scaleWord_le hz hscale⟩

/-- The radius stays below the reference radius and half the range of a 44-bit height. -/
theorem axesNorm_ephPos_lt {raw : Six Nat} (hraw : rawWf defaultEphLayout raw) :
    axesNorm (ephPos raw) < 6378150 * 2 ^ 20 + 2 ^ 43 := by
  obtain ⟨hx, hy, hz⟩ := abs_ephPos_le hraw
  exact axesNorm_lt hx hy hz (by decide)

theorem axesNorm_ephVel_lt {raw : Six Nat} (hraw : rawWf defaultEphLayout raw) :
    axesNorm (ephVel raw) < 2 ^ 34 := by
  obtain ⟨hx, hy, hz⟩ := abs_ephVel_le hraw
  exact axesNorm_lt hx hy hz (by decide)

/-- A scaled word within `m` fits a two's complement range above `m`. -/
theorem mem_range_of_abs_le {v m c : Int} (h : |v| ≤ m) (hm : m < c) : -c ≤ v ∧ v < c := by
  obtain ⟨hlo, hhi⟩ := abs_le.mp h
  exact ⟨by omega, by omega⟩

/-- Settles O42: the raw fields have 20 bits, each scale fits its words, and so do the norms of three such words. -/
theorem ephRecordFitsPortWidths : Obligations.EphRecordFitsPortWidths := by
  unfold Obligations.EphRecordFitsPortWidths
  intro a b
  obtain ⟨r, hr⟩ : ∃ r, decEph defaultEphLayout a b = .eph r := ⟨_, rfl⟩
  have hwf : recordWf defaultEphLayout (.eph r) := hr ▸ decEph_wf defaultEphLayout a b
  obtain ⟨hid, hweek, hsecs, htime, hraw, hpos, hvel, hradius, hheight, hspeed⟩ := hwf
  have hradius_lt : r.radius < 6378150 * 2 ^ 20 + 2 ^ 43 := by
    rw [hradius, hpos]; exact axesNorm_ephPos_lt hraw
  have hspeed_lt : r.speed < 2 ^ 34 := by
    rw [hspeed, hvel]; exact axesNorm_ephVel_lt hraw
  have hheight_range : -2 ^ 43 ≤ r.height ∧ r.height < 2 ^ 43 := by
    rw [hheight, refRadius]; omega
  refine ⟨r, hr, hid, hweek, hsecs, by omega, ?_, ?_, ?_, by omega, hheight_range.1, hheight_range.2, hspeed_lt⟩
  · obtain ⟨hx, hy, hz, hvx, hvy, hvz⟩ := hraw
    simpa using ⟨hx, hy, hz, hvx, hvy, hvz⟩
  · obtain ⟨hx, hy, hz⟩ := abs_ephPos_le hraw
    have hm : scalePos * 2 ^ 20 < 2 ^ 43 := by decide
    simpa [hpos] using ⟨mem_range_of_abs_le hx hm, mem_range_of_abs_le hy hm, mem_range_of_abs_le hz hm⟩
  · obtain ⟨hx, hy, hz⟩ := abs_ephVel_le hraw
    have hm : scaleVel * 2 ^ 20 < 2 ^ 33 := by decide
    simpa [hvel] using ⟨mem_range_of_abs_le hx hm, mem_range_of_abs_le hy hm, mem_range_of_abs_le hz hm⟩

end Sys2Proof.Machine
end

section
/-! The window match: the predicate, the operation, and `SYN_BIT` that ends in it (40_frame_sync.md R124, R125). -/

namespace Sys2Proof.Machine

theorem take_eq_syncWord_iff {w : List Bool} : w.take 24 = syncWord ↔ syncWord <+: w :=
  eq_comm.trans List.prefix_iff_eq_take.symm

/-- The length test of the match is implied by its comparison (40_frame_sync.md R125). -/
theorem windowMatches_iff_prefix {w : List Bool} : windowMatches w = true ↔ syncWord <+: w := by
  have hslice : slice w 0 24 = w.take 24 := rfl
  rw [windowMatches, hslice, Bool.and_eq_true, decide_eq_true_iff, decide_eq_true_iff, take_eq_syncWord_iff]
  exact and_iff_right_of_imp List.IsPrefix.length_le

/-- Settles O12: a window begins with the sync word just when it holds each of its bits at that bit's place. -/
theorem matchComparesOldestBits : Obligations.MatchComparesOldestBits := by
  unfold Obligations.MatchComparesOldestBits
  intro w
  change _ ↔ 24 ≤ w.length ∧ ∀ i, i < 24 → w[i]? = syncWord[i]?
  rw [windowMatches_iff_prefix]
  constructor
  · intro h
    exact ⟨h.length_le, fun i hi =>
      (List.prefix_iff_getElem?.mp h i hi).trans (List.getElem?_eq_getElem hi).symm⟩
  · rintro ⟨-, h⟩
    exact List.prefix_iff_getElem?.mpr fun i hi => (h i hi).trans (List.getElem?_eq_getElem hi)

/-- Settles O14: with room in `FQ` the operation pushes the window or leaves the state. -/
theorem syncMatchPushesWindow : Obligations.SyncMatchPushesWindow := by
  unfold Obligations.SyncMatchPushesWindow
  intro s hroom
  have hexec : exec .syncMatch s = execSyncMatch s := rfl
  rw [hexec, execSyncMatch_of_room hroom]
  cases windowMatches s.w with
  | true => rfl
  | false => simp

theorem not_prefix_of_decodeWindow_error {w : List Bool} {e : DecodeError} (h : decodeWindow w = .error e) :
    ¬syncWord <+: w := by
  intro hsync
  rw [decodeWindow_eq_ok_iff.mpr ⟨rfl, hsync⟩] at h
  cases h

theorem execSyncMatch_of_no_match {s : State} (h : ¬syncWord <+: s.w) : execSyncMatch s = .next s := by
  have hm : windowMatches s.w = false := Bool.eq_false_iff.mpr (mt windowMatches_iff_prefix.mp h)
  simp [execSyncMatch, waits, hm]

/-- Settles O4: `SYN_BIT` ends in `SYNC_MATCH`, which is what a matching window decodes to and does nothing on any
other. -/
theorem stepRunsDecodedWindow : Obligations.StepRunsDecodedWindow := by
  unfold Obligations.StepRunsDecodedWindow
  intro s more b hsched hb hroom
  have hstep : step s = execSyncMatch (acceptBit b { s with sched := more }) :=
    (stepTakesScheduledAction.1 s _ more hsched).trans (execSynBit_of_bit hb hroom)
  constructor
  · intro i hdecode
    obtain ⟨rfl, -⟩ := decodeWindow_eq_ok_iff.mp hdecode
    exact hstep
  · intro e hdecode
    exact hstep.trans (execSyncMatch_of_no_match (not_prefix_of_decodeWindow_error hdecode))

end Sys2Proof.Machine
end

section
/-! The frames of a bit stream in warm-up and in steady state (40_frame_sync.md R126, R128, R130, R131). -/

namespace Sys2Proof.Machine

theorem windowAfter_of_length_le {bits : List Bool} (h : bits.length ≤ 4800) : windowAfter bits = bits := by
  rw [windowAfter, windowCap, Nat.sub_eq_zero_of_le h, List.drop_zero]

/-- In warm-up the window is the whole stream so far, so whether it matches rests on the stream's first 24 bits
(40_frame_sync.md R126, R131). -/
theorem frameAt_of_length_le {bits : List Bool} (h : bits.length ≤ 4800) (n : Nat) :
    frameAt bits n = if syncWord <+: bits ∧ 24 ≤ n + 1 then some (bits.take (n + 1)) else none := by
  have hwindow : windowAfter (bits.take (n + 1)) = bits.take (n + 1) :=
    windowAfter_of_length_le ((List.length_take_le' ..).trans h)
  have hlen : syncWord.length = 24 := rfl
  simp only [frameAt, hwindow, windowMatches_iff_prefix, List.prefix_take_iff, hlen]

/-- Settles O15: of the bits of a stream that begins with the sync word the first 23 give no frame. -/
theorem warmUpFrames : Obligations.WarmUpFrames := by
  unfold Obligations.WarmUpFrames framesOfBits
  intro bits hle
  rw [ne_eq, take_eq_syncWord_iff]
  constructor
  · intro hsync
    have hframe : ∀ n, frameAt bits n = if 24 ≤ n + 1 then some (bits.take (n + 1)) else none := by
      simp [frameAt_of_length_le hle, hsync]
    obtain ⟨m, hm⟩ : ∃ m, bits.length = 23 + m :=
      Nat.exists_eq_add_of_le ((by decide : 23 ≤ syncWord.length).trans hsync.length_le)
    have hfirst : (List.range 23).filterMap (frameAt bits) = [] := by
      refine List.filterMap_eq_nil_iff.mpr fun n hn => ?_
      have hn' : n < 23 := List.mem_range.mp hn
      rw [hframe, if_neg (by omega)]
    have hrest : (frameAt bits ∘ fun k => 23 + k) = some ∘ fun k => bits.take (k + 24) := funext fun k => by
      rw [Function.comp_apply, hframe, if_pos (by omega), show 23 + k + 1 = k + 24 by omega, Function.comp_apply]
    rw [hm, Nat.add_sub_cancel_left, List.range_add, List.filterMap_append, hfirst, List.nil_append,
      List.filterMap_map, hrest, List.filterMap_eq_map]
  · intro hsync
    refine List.filterMap_eq_nil_iff.mpr fun n _ => ?_
    rw [frameAt_of_length_le hle, if_neg fun h => hsync h.1]

/-- Settles O16: behind 4800 bits the window begins 4799 bits before the new one. -/
theorem steadyStateFrames : Obligations.SteadyStateFrames := by
  unfold Obligations.SteadyStateFrames
  intro bits b hlen
  have hwindow : slideWindow (windowAfter bits) b = (bits ++ [b]).drop (bits.length - 4799) := by
    have hstart : bits.length + 1 - windowCap = bits.length - 4799 := by unfold windowCap; omega
    rw [← windowAfter_append, windowAfter, List.length_append, List.length_singleton, hstart]
  simp only [framesOfBits_append, hwindow, windowMatches_iff_prefix, take_eq_syncWord_iff]

end Sys2Proof.Machine
end

section
/-! The machine follows the bits it accepts (40_frame_sync.md R124 to R130, 20_memory.md R63). -/

namespace Sys2Proof.Machine

variable {s t : State}

@[simp] theorem acceptBit_w (b : Bool) (s : State) : (acceptBit b s).w = slideWindow s.w b := rfl

/-- The invariant does not speak of the schedule. -/
theorem State.FollowsBits.of_sameBlock (h : s.FollowsBits) (hst : s.SameBlock t) : t.FollowsBits := by
  rw [hst]; exact h

/-- A bit accepted slides the window and the reference window alike, and both match or neither does. -/
theorem Effect.keeps_followsBits {a : Action} (h : Effect s a t) (hs : s.FollowsBits) : t.FollowsBits := by
  unfold State.FollowsBits at hs ⊢
  obtain ⟨hw, hframes⟩ := hs
  cases h with
  | waited => exact ⟨hw, hframes⟩
  | accepted b hb hf hm | framed b hb hf hm =>
    rw [hw] at hm
    simp [windowAfter_append, framesOfBits_append, hw, hframes, hm]
  | loaded f rest =>
    rcases noteIncomplete_cases f (s.setFq rest) with ⟨bits, bytes, hn⟩ | hn <;> simp [hn, hw, hframes]
  | wasReset => exact State.reset_followsBits
  | packeted | popDropped | popDecoded | popHeld | ephAbandoned | ephDecoded | ephDropped | configured | configRead
  | took => simp [hw, hframes]

/-- Settles O53: a step is the effect of a scheduled action, and each effect keeps window and frames those of the bits
accepted. -/
theorem stepFollowsBits : Obligations.StepFollowsBits := by
  unfold Obligations.StepFollowsBits
  intro s t hs h
  obtain ⟨a, u, hblock, heffect⟩ := step_effect h
  exact heffect.keeps_followsBits (hs.of_sameBlock hblock)

end Sys2Proof.Machine
end

section
/-! The bytes and packets of a bit sequence (41_packetizer.md R141, R142, R148). -/

namespace Sys2Proof.Machine

theorem bitsVal_eq_sum (l : List Bool) :
    bitsVal l = ((List.range l.length).map fun i => (l.getD i false).toNat * 2 ^ i).sum := by
  induction l with
  | nil => rfl
  | cons b l ih =>
    have hshift : (fun i => (l.getD i false).toNat * 2 ^ (i + 1)) = fun i => 2 * ((l.getD i false).toNat * 2 ^ i) :=
      funext fun i => by rw [pow_succ']; exact Nat.mul_left_comm ..
    simp only [bitsVal, ih, List.length_cons, List.range_succ_eq_map, List.map_cons, List.map_map, List.sum_cons,
      Function.comp_def, List.getD_cons_zero, List.getD_cons_succ, hshift, List.sum_map_mul_left, pow_zero, mul_one]

/-- The value of the eight bits of a whole byte fits in it. -/
theorem byteAt_toNat {f : List Bool} {j : Nat} (hlen : (slice f (8 * j) (8 * j + 8)).length = 8) :
    (byteAt f j).toNat = bitsVal (slice f (8 * j) (8 * j + 8)) := by
  have hlt := bitsVal_lt (slice f (8 * j) (8 * j + 8))
  rw [hlen] at hlt
  exact Nat.mod_eq_of_lt hlt

/-- Settles O17: a whole byte is worth what its eight bits are, and bit `i` of those is bit `8j + i` of the frame. -/
theorem byteIsSumOfBits : Obligations.ByteIsSumOfBits := by
  unfold Obligations.ByteIsSumOfBits
  intro f j hj
  have hlen : (slice f (8 * j) (8 * j + 8)).length = 8 := by
    rw [slice, List.length_take, List.length_drop]
    omega
  rw [byteAt_toNat hlen, bitsVal_eq_sum, hlen]
  refine congrArg List.sum (List.map_congr_left fun i hi => ?_)
  have hi' : i < 8 := List.mem_range.mp hi
  have hbit : (slice f (8 * j) (8 * j + 8))[i]? = f[8 * j + i]? := by simp [slice, hi']
  rw [List.getD_eq_getElem?_getD, hbit, ← List.getD_eq_getElem?_getD]

theorem npackets_eq (f : List Bool) : npackets f = f.length / 96 :=
  Nat.div_div_eq_div_mul ..

/-- Settles O18: the definitions, with the eights and twelves taken together. -/
theorem packetsAreTwelveByteRuns : Obligations.PacketsAreTwelveByteRuns := by
  unfold Obligations.PacketsAreTwelveByteRuns
  intro f
  exact ⟨rfl, npackets_eq f, by rw [packets, npackets_eq], packetAt_bytes f, rfl, rfl⟩

/-- Behind `n` whole bytes the bytes of a sequence are counted on from `n`. -/
theorem byteAt_append_add {l : List Bool} {n : Nat} (h : l.length = 8 * n) (m : List Bool) (j : Nat) :
    byteAt (l ++ m) (j + n) = byteAt m j := by
  rw [byteAt, byteAt, slice, slice, Nat.mul_add, ← h, Nat.add_comm (8 * j), List.drop_length_add_append,
    Nat.add_sub_cancel_left, Nat.add_sub_cancel_left]

theorem byteBits_length (b : Byte) : (byteBits b).length = 8 := rfl

theorem byteAt_byteBits_append (b : Byte) (m : List Bool) : byteAt (byteBits b ++ m) 0 = b := by
  refine BitVec.eq_of_getLsbD_eq fun i hi => ?_
  rw [getLsbD_byteAt _ _ hi, List.getD_append _ _ _ _ (by rw [byteBits_length]; omega)]
  simp [byteBits, hi]

/-- Bytes laid out bit by bit are read back one by one (41_packetizer.md R148). -/
theorem byteAt_flatMap_byteBits (bs : List Byte) (m : List Bool) {j : Nat} (hj : j < bs.length) :
    byteAt (bs.flatMap byteBits ++ m) j = bs[j] := by
  induction bs generalizing j with
  | nil => exact absurd hj (Nat.not_lt_zero j)
  | cons b bs ih =>
    rw [List.flatMap_cons, List.append_assoc]
    cases j with
    | zero => exact byteAt_byteBits_append b _
    | succ j =>
      rw [byteAt_append_add (byteBits_length b), ih (Nat.lt_of_succ_lt_succ hj), List.getElem_cons_succ]

theorem packetBits_length (p : Packet) : (packetBits p).length = 96 := rfl

theorem packetAt_packetBits_append (p : Packet) (m : List Bool) : packetAt (packetBits p ++ m) 0 = p := by
  refine Packet.bytes_injective (List.ext_getElem (by simp) fun j _ hj => ?_)
  simp [packetAt_bytes, packetBits, byteAt_flatMap_byteBits p.bytes m hj]

/-- Behind a packet the packets of a sequence are counted on from one. -/
theorem packetAt_packetBits_append_succ (p : Packet) (m : List Bool) (k : Nat) :
    packetAt (packetBits p ++ m) (k + 1) = packetAt m k := by
  refine Packet.bytes_injective ?_
  have hindex (i : Nat) : 12 * (k + 1) + i = 12 * k + i + 12 := by omega
  simp only [packetAt_bytes, hindex, byteAt_append_add (n := 12) (packetBits_length p)]

/-- A packet laid out bit by bit is the first of the packets of the sequence it begins. -/
theorem packets_packetBits_append (p : Packet) (m : List Bool) : packets (packetBits p ++ m) = p :: packets m := by
  have hcount : npackets (packetBits p ++ m) = npackets m + 1 := by
    rw [npackets_eq, npackets_eq, List.length_append, packetBits_length]
    omega
  simp [packets, hcount, List.range_succ_eq_map, packetAt_packetBits_append, packetAt_packetBits_append_succ]

theorem packets_eq_nil_iff {f : List Bool} : packets f = [] ↔ f.length < 96 := by
  rw [packets, List.map_eq_nil_iff, List.range_eq_nil, npackets_eq, Nat.div_eq_zero_iff]
  simp

/-- Settles O19, by induction on the packets: each is read off the head of the sequence, and the remainder is none. -/
theorem packetsRoundTrip : Obligations.PacketsRoundTrip := by
  unfold Obligations.PacketsRoundTrip
  intro ps rest hrest
  induction ps with
  | nil => exact packets_eq_nil_iff.mpr hrest
  | cons p ps ih => rw [List.flatMap_cons, List.append_assoc, packets_packetBits_append, ih]

end Sys2Proof.Machine
end

section
/-! The steps of the packetizer (41_packetizer.md R145, R146). -/

namespace Sys2Proof.Machine

theorem remOf_eq_ite (ps : List Packet) : remOf ps = if ps = [] then none else some ps := by
  cases ps <;> rfl

/-- A frame of fewer than 96 bits leaves nothing to push (41_packetizer.md R145). -/
theorem remOf_packets (f : Frame) :
    remOf (packets f) = if f.length < 96 then none else some (packets f) := by
  simp only [remOf_eq_ite, packets_eq_nil_iff]

/-- Bits and bytes are left over just when the length is no multiple of 96. -/
theorem dropped_ne_zero_iff {f : Frame} : (droppedBits f ≠ 0 ∨ droppedBytes f ≠ 0) ↔ f.length % 96 ≠ 0 := by
  unfold droppedBits droppedBytes nbytes
  omega

/-- An incomplete frame is noted in the trace, and nowhere else. -/
theorem noteIncomplete_eq (f : Frame) (s : State) :
    noteIncomplete f s = { s with
      trace := s.trace ++
        (if f.length % 96 = 0 then [] else [.drop (.incompleteFrameData (f.length % 8) (f.length / 8 % 12))]) } := by
  unfold noteIncomplete
  simp only [dropped_ne_zero_iff]
  by_cases hwhole : f.length % 96 = 0
  · simp [hwhole]
  · rw [if_pos hwhole, if_neg hwhole]; rfl

/-- Settles O22: the note of the frame, and its packets as the remainder. -/
theorem pkzLoadTakesFrame : Obligations.PkzLoadTakesFrame := by
  unfold Obligations.PkzLoadTakesFrame
  intro s f rest hrem hq
  have hexec : exec .pkzLoad s = execPkzLoad s := rfl
  rw [hexec, execPkzLoad_of_frame hrem hq, noteIncomplete_eq, remOf_packets]
  rfl

/-- Settles O23: the packet is pushed, and what stands behind it is the remainder. -/
theorem pkzEmitPushesPacket : Obligations.PkzEmitPushesPacket := by
  unfold Obligations.PkzEmitPushesPacket
  intro s p rest hrem hroom
  have hexec : exec .pkzEmit s = execPkzEmit s := rfl
  rw [hexec, execPkzEmit_of_room hrem hroom, remOf_eq_ite]
  rfl

end Sys2Proof.Machine
end

section
/-! Every record pushed is the decoding of packets pushed (42_checksum_dispatch.md R169, R171, 20_memory.md R57): one
rule per operation over the state, and from these that every step keeps it. -/

namespace Sys2Proof.Machine

/-- What packets pushed decode to stays decoded from them when more are pushed. -/
theorem decodedFrom.append {layout : Six BitField} {ps : List Packet} {r : Record} (h : decodedFrom layout ps r)
    (qs : List Packet) : decodedFrom layout (ps ++ qs) r := by
  obtain ⟨part, hpart, hdec⟩ := h
  exact ⟨part, hpart.trans (List.prefix_append ps qs).isInfix, hdec⟩

namespace State.RecordsSound

variable {s t : State}

/-- The invariant does not speak of the schedule. -/
theorem of_sameBlock (h : s.RecordsSound) (hst : s.SameBlock t) : t.RecordsSound := by
  rw [hst]; exact h

theorem setCfgEnable (h : s.RecordsSound) (v : Byte) : (s.setCfgEnable v).RecordsSound := h

theorem setCfgData (h : s.RecordsSound) (v : Option Byte) : (s.setCfgData v).RecordsSound := h

theorem setFq (h : s.RecordsSound) (q : List Frame) : (s.setFq q).RecordsSound := h

theorem setPzRem (h : s.RecordsSound) (r : Option (List Packet)) : (s.setPzRem r).RecordsSound := h

theorem setRq (h : s.RecordsSound) (q : List Record) : (s.setRq q).RecordsSound := h

/-- Any event but a packet or a record pushed. -/
theorem log (h : s.RecordsSound) {e : Event} (hp : e.asPacket = none) (hr : e.asRecord = none) :
    (s.log e).RecordsSound := by
  have hpackets : packetsOf (s.log e).trace = packetsOf s.trace := by simp [packetsOf, hp]
  have hrecords : recordsOf (s.log e).trace = recordsOf s.trace := by simp [recordsOf, hr]
  unfold State.RecordsSound
  rw [hpackets, hrecords]
  exact h

theorem raise (h : s.RecordsSound) (d : Drop) : (s.raise d).RecordsSound := h.log rfl rfl

theorem acceptBit (h : s.RecordsSound) (b : Bool) : (acceptBit b s).RecordsSound := h.log (e := .bit b) rfl rfl

theorem pushFrame (h : s.RecordsSound) (f : Frame) : (s.pushFrame f).RecordsSound := h.log (e := .frame f) rfl rfl

theorem noteIncomplete (h : s.RecordsSound) (f : Frame) : (noteIncomplete f s).RecordsSound := by
  rcases noteIncomplete_cases f s with ⟨bits, bytes, hn⟩ | hn <;> rw [hn]
  · exact h.raise _
  · exact h

/-- A packet pushed waits behind the others, and records decoded before stay decoded. -/
theorem pushPacket (h : s.RecordsSound) (p : Packet) : (s.pushPacket p).RecordsSound := by
  obtain ⟨hheld, hwaiting, hsound⟩ := h
  have hpackets : packetsOf (s.pushPacket p).trace = packetsOf s.trace ++ [p] := by simp
  have hrecords : recordsOf (s.pushPacket p).trace = recordsOf s.trace := by simp
  refine ⟨hheld, ?_, ?_⟩
  · rw [hpackets, State.pushPacket_dsp, State.pushPacket_pq, ← List.append_assoc]
    exact List.suffix_append_self_iff.mpr hwaiting
  · rw [hpackets, hrecords]
    exact fun r hr => (hsound r hr).append [p]

/-- A record of packets pushed one right after the other. -/
theorem emit (h : s.RecordsSound) {ps : List Packet} {r : Record} (hps : ps <:+: packetsOf s.trace)
    (hr : decodesTo s.params.ephLayout ps r) : (s.emit r).RecordsSound := by
  obtain ⟨hheld, hwaiting, hsound⟩ := h
  have hpackets : packetsOf (s.emit r).trace = packetsOf s.trace := by simp
  have hrecords : recordsOf (s.emit r).trace = recordsOf s.trace ++ [r] := by simp
  refine ⟨hheld, hpackets ▸ hwaiting, ?_⟩
  rw [hpackets, hrecords]
  exact List.forall_mem_append.mpr ⟨hsound, List.forall_mem_singleton.mpr ⟨ps, hps, hr⟩⟩

/-- Taking the head of `PQ`. -/
theorem popPq (h : s.RecordsSound) {a : Packet} {rest : List Packet} (hd : s.dsp = .idle) (hq : s.pq = a :: rest) :
    (s.setPq rest).RecordsSound := by
  obtain ⟨hheld, hwaiting, hsound⟩ := h
  rw [hd, hq] at hwaiting
  exact ⟨hheld, by simpa [hd, Dsp.held] using (List.suffix_cons a rest).trans hwaiting, hsound⟩

/-- Holding the head of `PQ` as a trigger. -/
theorem hold (h : s.RecordsSound) {a : Packet} {rest : List Packet} (hd : s.dsp = .idle) (hq : s.pq = a :: rest)
    (ha : typeOfTag a.b0 = some .ephemeris) : ((s.setPq rest).setDsp (.ephPending a)).RecordsSound := by
  obtain ⟨-, hwaiting, hsound⟩ := h
  rw [hd, hq] at hwaiting
  exact ⟨fun _ he => by cases he; exact ha, hwaiting, hsound⟩

/-- Giving up the trigger. -/
theorem setDsp_idle (h : s.RecordsSound) : (s.setDsp .idle).RecordsSound := by
  obtain ⟨-, hwaiting, hsound⟩ := h
  exact ⟨nofun, (List.suffix_append s.dsp.held s.pq).trans hwaiting, hsound⟩

/-- What the dispatcher holds and what waits first for it was pushed, one packet right after the other. -/
theorem isInfix_packetsOf (h : s.RecordsSound) {ps rest : List Packet} (hps : s.dsp.held ++ s.pq = ps ++ rest) :
    ps <:+: packetsOf s.trace := by
  obtain ⟨-, hwaiting, -⟩ := h
  exact (List.prefix_append ps rest).isInfix.trans (hps ▸ hwaiting.isInfix)

end State.RecordsSound

/-- Whatever an agent or host step leads to, it keeps the records sound. -/
theorem Effect.keeps_recordsSound {s t : State} {a : Action} (h : Effect s a t) (hs : s.RecordsSound) :
    t.RecordsSound := by
  cases h with
  | waited => exact hs
  | accepted b => exact hs.acceptBit b
  | framed b => exact (hs.acceptBit b).pushFrame _
  | loaded f rest => exact ((hs.setFq rest).noteIncomplete f).setPzRem _
  | packeted p rest => exact (hs.pushPacket p).setPzRem _
  | popDropped p rest d hd hq => exact (hs.popPq hd hq).raise d
  | popDecoded p rest ty r hd hq _ ht hc hrec =>
    have hp : [p] <:+: packetsOf s.trace := hs.isInfix_packetsOf (rest := rest) (by simp [hd, hq, Dsp.held])
    exact (hs.popPq hd hq).emit hp (.inl ⟨ty, p, rfl, ht, hc, hrec⟩)
  | popHeld p rest hd hq _ ht => exact hs.hold hd hq ht
  | ephAbandoned => exact hs.setDsp_idle.raise _
  | ephDecoded p q rest hd hq _ hc =>
    have hpq : [p, q] <:+: packetsOf s.trace := hs.isInfix_packetsOf (rest := rest) (by simp [hd, hq, Dsp.held])
    have ht : typeOfTag p.b0 = some .ephemeris := hs.1 p hd
    exact (hs.setDsp_idle.popPq rfl hq).emit hpq (.inr ⟨p, q, rfl, ht, hc, rfl⟩)
  | ephDropped p q rest _ hq => exact (hs.setDsp_idle.popPq rfl hq).raise _
  | configured v => exact hs.setCfgEnable v
  | configRead => exact hs.setCfgData _
  | wasReset => exact ⟨nofun, List.suffix_rfl, nofun⟩
  | took r rest => exact (hs.setRq rest).log rfl rfl

/-- Settles O57: a step is the effect of a scheduled action, and each effect keeps the records sound. -/
theorem stepKeepsRecordsSound : Obligations.StepKeepsRecordsSound := by
  unfold Obligations.StepKeepsRecordsSound
  intro s t hs h
  obtain ⟨a, u, hblock, heffect⟩ := step_effect h
  exact heffect.keeps_recordsSound (hs.of_sameBlock hblock)

end Sys2Proof.Machine
end

section
/-! The Fletcher sums in closed form, and what follows for bytes appended, leading zeros and one changed byte
(42_checksum_dispatch.md R160 to R162). -/

namespace Sys2Proof.Machine

/-- The sum of the bytes, each taken as often as there are bytes from it to the end (42_checksum_dispatch.md R162). -/
def weightedSum (bs : List Byte) : Nat :=
  ((List.range bs.length).map fun i => (bs.length - i) * (bs.getD i 0).toNat).sum

@[simp] theorem weightedSum_nil : weightedSum [] = 0 := rfl

theorem weightedSum_cons (b : Byte) (bs : List Byte) :
    weightedSum (b :: bs) = (bs.length + 1) * b.toNat + weightedSum bs := by
  simp [weightedSum, List.range_succ_eq_map, Function.comp_def]

/-- From any sums, each byte adds to the first, and the first adds to the second after each byte. -/
theorem foldl_fletcherByte (bs : List Byte) {s1 s2 : Nat} (h1 : s1 < 256) (h2 : s2 < 256) :
    bs.foldl fletcherByte (s1, s2) =
      ((s1 + (bs.map BitVec.toNat).sum) % 256, (s2 + bs.length * s1 + weightedSum bs) % 256) := by
  induction bs generalizing s1 s2 with
  | nil => simp [Nat.mod_eq_of_lt h1, Nat.mod_eq_of_lt h2]
  | cons b bs ih =>
    have hfirst : (s1 + b.toNat) % 256 ≡ s1 + b.toNat [MOD 256] := Nat.mod_modEq _ _
    have hsecond : (s2 + (s1 + b.toNat) % 256) % 256 + bs.length * ((s1 + b.toNat) % 256) ≡
        s2 + (s1 + b.toNat) + bs.length * (s1 + b.toNat) [MOD 256] :=
      ((Nat.mod_modEq _ _).trans (hfirst.add_left s2)).add (hfirst.mul_left _)
    have hterms : s2 + (bs.length + 1) * s1 + ((bs.length + 1) * b.toNat + weightedSum bs) =
        s2 + (s1 + b.toNat) + bs.length * (s1 + b.toNat) + weightedSum bs := by ring
    rw [List.foldl_cons, fletcherByte, ih (Nat.mod_lt _ (by decide)) (Nat.mod_lt _ (by decide)), List.map_cons,
      List.sum_cons, List.length_cons, weightedSum_cons, hterms, ← Nat.add_assoc]
    exact Prod.ext (hfirst.add_right _) (hsecond.add_right _)

theorem fletcherSums_eq (bs : List Byte) :
    fletcherSums bs = ((bs.map BitVec.toNat).sum % 256, weightedSum bs % 256) := by
  simpa [fletcherSums] using foldl_fletcherByte bs (s1 := 0) (s2 := 0) (by decide) (by decide)

/-- Settles O24: the closed form of the sums that start at zero. -/
theorem fletcherClosedForm : Obligations.FletcherClosedForm := by
  unfold Obligations.FletcherClosedForm
  intro bs
  rw [fletcherSums_eq]
  exact ⟨rfl, rfl⟩

theorem valid_iff {bs : List Byte} : valid bs = true ↔ fletcherSums bs = (0, 0) := by
  rw [valid, decide_eq_true_iff, fletcher_eq_zero]

theorem valid_iff_sums {bs : List Byte} :
    valid bs = true ↔ (bs.map BitVec.toNat).sum % 256 = 0 ∧ weightedSum bs % 256 = 0 := by
  rw [valid_iff, fletcherSums_eq, Prod.mk.injEq]

/-- Behind bytes that leave both sums at zero, the sums are those of the rest. -/
theorem valid_append {a : List Byte} (ha : valid a = true) (b : List Byte) : valid (a ++ b) = valid b := by
  rw [valid, valid, fletcher, fletcher, fletcherSums_append, valid_iff.mp ha]
  rfl

theorem valid_replicate_zero (n : Nat) : valid (List.replicate n 0) = true := by
  induction n with
  | zero => rfl
  | succ n ih => exact (valid_append (a := [0]) rfl _).trans ih

/-- Settles O25: a valid part, and zeros are one, leaves the sums where they began. -/
theorem fletcherConcatenation : Obligations.FletcherConcatenation := by
  unfold Obligations.FletcherConcatenation
  constructor
  · intro a b ha
    rw [valid_append ha]
  · intro n b
    exact valid_append (valid_replicate_zero n) b

/-- Settles O27: the first sums of two sequences that differ in one byte differ by that byte's change, which is no
multiple of 256. -/
theorem oneByteChangeIsDetected : Obligations.OneByteChangeIsDetected := by
  unfold Obligations.OneByteChangeIsDetected
  intro before after x y hxy hx
  refine Bool.eq_false_iff.mpr fun hy => hxy (BitVec.eq_of_toNat_eq ?_)
  obtain ⟨hxsum, -⟩ := valid_iff_sums.mp hx
  obtain ⟨hysum, -⟩ := valid_iff_sums.mp hy
  have hxlt := x.isLt
  have hylt := y.isLt
  simp only [List.map_append, List.map_cons, List.sum_append, List.sum_cons] at hxsum hysum
  omega

end Sys2Proof.Machine
end

section
/-! The route of a tag under an enable word (42_checksum_dispatch.md R165 to R167). -/

namespace Sys2Proof.Machine

theorem typeOfTag_eq_none_iff {b : Byte} : typeOfTag b = none ↔ ∀ t : PacketType, b ≠ t.tag := by
  simp only [Option.eq_none_iff_forall_ne_some, ne_eq, typeOfTag_eq_some_iff]

/-- Settles O28: the tag of a known type decides which rows of the table apply; any other tag meets none of them. -/
theorem routeFollowsTable : Obligations.RouteFollowsTable := by
  unfold Obligations.RouteFollowsTable
  intro t en
  cases ht : typeOfTag t with
  | some ty =>
    rw [route, ht, typeOfTag_eq_some_iff.mp ht]
    cases ty <;> simp [PacketType.tag, typeEnabled, enableBit]
  | none =>
    have hne := typeOfTag_eq_none_iff.mp ht
    have hdiscard : route t en = .discard := by simp [route, ht]
    rw [hdiscard, if_neg fun h => hne .synchronization h.1, if_neg fun h => hne .message h.1,
      if_neg fun h => hne .uplink h.1, if_neg fun h => hne .downlink h.1, if_neg fun h => hne .ephemeris h.1,
      if_neg fun h => hne .elements h.1]

end Sys2Proof.Machine
end

section
/-! What the dispatcher and the operations of a packet taken do, with room in `RQ` (42_checksum_dispatch.md R166 to
R172, 60_exceptions.md R273): one equation per path. -/

namespace Sys2Proof.Machine

variable {s : State} {ty : PacketType} {dec : Packet → Record} {p a b : Packet}

theorem handleSingle_of_disabled (hroom : s.rqFull = false) (hen : typeEnabled s.cfgEnable ty = false) :
    handleSingle ty dec p s = .next (s.raise (.unknownOrDisabled p)) := by
  simp [handleSingle, hroom, hen]

theorem handleSingle_of_bad (hroom : s.rqFull = false) (hen : typeEnabled s.cfgEnable ty = true)
    (hbad : fletcher p.bytes ≠ 0) : handleSingle ty dec p s = .next (s.raise (.checksumFailure p none)) := by
  simp [handleSingle, hroom, hen, hbad]

theorem handleSingle_of_good (hroom : s.rqFull = false) (hen : typeEnabled s.cfgEnable ty = true)
    (hgood : fletcher p.bytes = 0) : handleSingle ty dec p s = .next (s.emit (dec p)) := by
  simp [handleSingle, hroom, hen, hgood]

theorem discardPacket_of_room (hroom : s.rqFull = false) :
    discardPacket p s = .next (s.raise (.unknownOrDisabled p)) := by
  simp [discardPacket, hroom]

theorem execDecEph_of_good (hroom : s.rqFull = false) (hgood : fletcher (a.bytes ++ b.bytes) = 0) :
    execDecEph a b s = .next (s.emit (decEph s.params.ephLayout a b)) := by
  simp [execDecEph, hroom, hgood]

theorem execDecEph_of_bad (hroom : s.rqFull = false) (hbad : fletcher (a.bytes ++ b.bytes) ≠ 0) :
    execDecEph a b s = .next (s.raise (.checksumFailure a (some b))) := by
  simp [execDecEph, hroom, hbad]

/-- A disabled trigger is dropped before the pre-check is asked for (60_exceptions.md R273). -/
theorem holdTrigger_of_disabled (hen : typeEnabled s.cfgEnable .ephemeris = false) :
    holdTrigger a s = .next (s.raise (.unknownOrDisabled a)) := by
  simp [holdTrigger, hen]

theorem holdTrigger_of_bad (hen : typeEnabled s.cfgEnable .ephemeris = true)
    (hcheck : s.params.ephTriggerPrecheck = true) (hbad : fletcher a.bytes ≠ 0) :
    holdTrigger a s = .next (s.raise (.checksumFailure a none)) := by
  simp [holdTrigger, hen, hcheck, hbad]

theorem holdTrigger_of_good (hen : typeEnabled s.cfgEnable .ephemeris = true)
    (hcheck : s.params.ephTriggerPrecheck = false ∨ fletcher a.bytes = 0) :
    holdTrigger a s = .next (s.setDsp (.ephPending a)) := by
  rcases hcheck with hcheck | hcheck <;> simp [holdTrigger, hen, hcheck]

/-- Settles O31: each of the three is the discard of a packet. -/
theorem discardsRecordOneDrop : Obligations.DiscardsRecordOneDrop := by
  unfold Obligations.DiscardsRecordOneDrop
  intro s p hroom
  have hdiscard : discardPacket p s = .next (s.raise (.unknownOrDisabled p)) := discardPacket_of_room hroom
  simp only [List.forall_mem_cons]
  exact ⟨hdiscard, hdiscard, hdiscard, nofun⟩

/-- Settles O32: the five single-packet operations handle their packet alike, under the enable bit of their type. -/
theorem badOrDisabledPacketsAreDropped : Obligations.BadOrDisabledPacketsAreDropped := by
  unfold Obligations.BadOrDisabledPacketsAreDropped
  intro s p hroom
  have hsingle (ty : PacketType) (dec : Packet → Record) :
      (typeEnabled s.cfgEnable ty = false →
        handleSingle ty dec p s = .next (s.raise (.unknownOrDisabled p))) ∧
      (typeEnabled s.cfgEnable ty = true → fletcher p.bytes ≠ 0 →
        handleSingle ty dec p s = .next (s.raise (.checksumFailure p none))) :=
    ⟨handleSingle_of_disabled hroom, handleSingle_of_bad hroom⟩
  refine ⟨?_, fun b hbad => execDecEph_of_bad hroom hbad⟩
  simp only [List.forall_mem_cons]
  exact ⟨hsingle .synchronization decSync, hsingle .message decMsg, hsingle .uplink decUpl, hsingle .downlink decDnl,
    hsingle .elements decEle, nofun⟩

/-- Settles O30: the follower taken, the pair is handled by its checksum. -/
theorem dspEphLooksAhead : Obligations.DspEphLooksAhead := by
  unfold Obligations.DspEphLooksAhead
  intro s a hd hroom
  refine ⟨fun hq => execDspEph_of_empty hd hq hroom, fun b rest hq hgood => ?_, fun b rest hq hbad => ?_⟩
  · exact (execDspEph_of_follower hd hq hroom).trans (execDecEph_of_good hroom hgood)
  · exact (execDspEph_of_follower hd hq hroom).trans (execDecEph_of_bad hroom hbad)

/-- Everything the tag of a packet can select: a discard, the handling with a single-packet decoder, or the look-ahead;
each with the packet's route under every enable word (42_checksum_dispatch.md R165 to R168). -/
theorem dispatchPacket_cases (a : Packet) (s : State) :
    (dispatchPacket a s = discardPacket a s ∧ ∀ en, route a.b0 en = .discard) ∨
    (∃ ty dec, typeOfTag a.b0 = some ty ∧ singleRecord ty a = some (dec a) ∧
      dispatchPacket a s = handleSingle ty dec a s ∧
      ∀ en, route a.b0 en = if typeEnabled en ty then .single ty else .discard) ∨
    (dispatchPacket a s = holdTrigger a s ∧
      ∀ en, route a.b0 en = if typeEnabled en .ephemeris then .eph else .discard) := by
  cases ht : typeOfTag a.b0 with
  | none => exact .inl ⟨by simp only [dispatchPacket, ht]; rfl, by simp [route, ht]⟩
  | some ty =>
    cases ty with
    | networkControl | fill => exact .inl ⟨by simp only [dispatchPacket, ht]; rfl, by simp [route, ht]⟩
    | ephemeris => exact .inr (.inr ⟨by simp only [dispatchPacket, ht], by simp [route, ht]⟩)
    | synchronization | message | uplink | downlink | elements =>
      exact .inr (.inl ⟨_, _, rfl, rfl, by simp only [dispatchPacket, ht]; rfl, by simp [route, ht]⟩)

theorem dispatchPacket_of_discard (hroom : s.rqFull = false) (hroute : route a.b0 s.cfgEnable = .discard) :
    dispatchPacket a s = .next (s.raise (.unknownOrDisabled a)) := by
  rcases dispatchPacket_cases a s with ⟨hexec, -⟩ | ⟨ty, dec, -, -, hexec, htable⟩ | ⟨hexec, htable⟩
  · rw [hexec, discardPacket_of_room hroom]
  · rw [hexec, handleSingle_of_disabled hroom (by simpa [htable] using hroute)]
  · rw [hexec, holdTrigger_of_disabled (by simpa [htable] using hroute)]

/-- A packet routed to a single-packet decoder is of an enabled type and handled with that decoder. -/
theorem dispatchPacket_of_single (hroute : route a.b0 s.cfgEnable = .single ty) :
    ∃ dec, typeEnabled s.cfgEnable ty = true ∧ singleRecord ty a = some (dec a) ∧
      dispatchPacket a s = handleSingle ty dec a s := by
  rcases dispatchPacket_cases a s with ⟨-, htable⟩ | ⟨ty', dec, -, hrec, hexec, htable⟩ | ⟨-, htable⟩ <;>
    rw [htable] at hroute
  · cases hroute
  · split at hroute
    · next hen => cases hroute; exact ⟨dec, hen, hrec, hexec⟩
    · cases hroute
  · split at hroute <;> cases hroute

theorem dispatchPacket_of_eph (hroute : route a.b0 s.cfgEnable = .eph) :
    typeEnabled s.cfgEnable .ephemeris = true ∧ dispatchPacket a s = holdTrigger a s := by
  rcases dispatchPacket_cases a s with ⟨-, htable⟩ | ⟨ty, dec, -, -, -, htable⟩ | ⟨hexec, htable⟩ <;>
    rw [htable] at hroute
  · cases hroute
  · split at hroute <;> cases hroute
  · split at hroute
    · next hen => exact ⟨hen, hexec⟩
    · cases hroute

/-- Settles O29: the packet taken, its route selects the operation, and its checksum the operation's path. -/
theorem dspPopFollowsRoute : Obligations.DspPopFollowsRoute := by
  unfold Obligations.DspPopFollowsRoute
  intro s a rest hd hq hroom
  have hpop : exec .dspPop s = dispatchPacket a (s.setPq rest) := execDspPop_of_room hd hq hroom
  have hroom' : (s.setPq rest).rqFull = false := hroom
  rw [hpop]
  refine ⟨fun hroute => ?_, fun t hroute hbad => ?_, fun t hroute hgood => ?_, fun hroute hcheck hbad => ?_,
    fun hroute hcheck => ?_⟩
  · exact dispatchPacket_of_discard hroom' hroute
  · obtain ⟨dec, hen, -, hsingle⟩ := dispatchPacket_of_single (s := s.setPq rest) hroute
    exact hsingle.trans (handleSingle_of_bad hroom' hen hbad)
  · obtain ⟨dec, hen, hrec, hsingle⟩ := dispatchPacket_of_single (s := s.setPq rest) hroute
    exact ⟨dec a, hrec, hsingle.trans (handleSingle_of_good hroom' hen hgood)⟩
  · obtain ⟨hen, hhold⟩ := dispatchPacket_of_eph (s := s.setPq rest) hroute
    exact hhold.trans (holdTrigger_of_bad hen hcheck hbad)
  · obtain ⟨hen, hhold⟩ := dispatchPacket_of_eph (s := s.setPq rest) hroute
    exact hhold.trans (holdTrigger_of_good hen hcheck)

end Sys2Proof.Machine
end

section
/-! The records of Synchronization and Message packets (43_decoders_link.md R190, R195). -/

namespace Sys2Proof.Machine

/-- The nibbles of a byte (00_scope.md R9). -/
theorem hi4_eq (x : Byte) : hi4 x = x.toNat / 16 := by
  have hx := x.isLt
  unfold hi4 bitSlice
  rw [Nat.shiftRight_eq_div_pow]
  omega

theorem lo4_eq (x : Byte) : lo4 x = x.toNat % 16 := rfl

theorem decSync_eq (p : Packet) : decSync p = .sync { scId := p.b3.toNat, minorFrame := p.b6.toNat / 16 } := by
  rw [decSync, hi4_eq]

theorem decMsg_eq (p : Packet) : decMsg p = .msg {
    fragIndex := p.b1.toNat % 16 + 1
    fragCount := p.b1.toNat / 16
    payload := [p.b9, p.b8, p.b7, p.b6, p.b5, p.b4, p.b3, p.b2] } := by
  rw [decMsg, hi4_eq, lo4_eq]
  rfl

/-- Settles O35: an enabled packet that passes its checksum is handled by emitting what `DEC_SYNC` makes of it. -/
theorem decSyncEmitsRecord : Obligations.DecSyncEmitsRecord := by
  unfold Obligations.DecSyncEmitsRecord
  rintro s p r hroom hen hgood rfl
  rw [← decSync_eq]
  exact handleSingle_of_good (ty := .synchronization) hroom hen hgood

/-- Settles O36: an enabled packet that passes its checksum is handled by emitting what `DEC_MSG` makes of it. -/
theorem decMsgEmitsRecord : Obligations.DecMsgEmitsRecord := by
  unfold Obligations.DecMsgEmitsRecord
  rintro s p r hroom hen hgood rfl
  rw [← decMsg_eq]
  exact handleSingle_of_good (ty := .message) hroom hen hgood

end Sys2Proof.Machine
end

section
/-! The record of an ephemeris pair under any layout (44_decoders_orbit.md R233, R240 to R247), and the bits its fields
are made of (20_memory.md R54). -/

namespace Sys2Proof.Machine

theorem isqrt_eq_sqrt (n : Nat) : isqrt n = Nat.sqrt n :=
  Nat.eq_sqrt.mpr (isqrtIsFloorOfSqrt n)

theorem axesNorm_eq_sqrt (v : Axes Int) : axesNorm v = Nat.sqrt (v.x ^ 2 + v.y ^ 2 + v.z ^ 2).toNat := by
  rw [axesNorm, isqrt_eq_sqrt, sq, sq, sq]

/-- The week stands in bytes 8 and 9 of the follower (44_decoders_orbit.md R242). -/
theorem ephWeek_pair (a b : Packet) : ephWeek (a.bytes ++ b.bytes) = b.b8.toNat + 2 ^ 8 * b.b9.toNat := rfl

/-- The seconds stand in bytes 5 to 7 of the follower (44_decoders_orbit.md R242). -/
theorem ephSeconds_pair (a b : Packet) :
    ephSeconds (a.bytes ++ b.bytes) = b.b5.toNat + 2 ^ 8 * b.b6.toNat + 2 ^ 16 * b.b7.toNat := by
  have hle : ephSeconds (a.bytes ++ b.bytes) = le [b.b5, b.b6, b.b7] := rfl
  rw [hle]
  simp only [le]
  omega

theorem getElem?_eq_bitAt {bs : List Byte} {n : Nat} (h : n < 8 * bs.length) :
    bs[n / 8]?.map (fun x => x.getLsbD (n % 8)) = some (bitAt bs n) := by
  have hget : bs[n / 8]? = some bs[n / 8] := List.getElem?_eq_getElem (by omega)
  simp [bitAt, hget]

/-- A field is the sum of its bits, the first the least significant (20_memory.md R54). -/
theorem field_eq_sum (bs : List Byte) (o w : Nat) :
    field bs o w = ((List.range w).map fun k => (bitAt bs (o + k)).toNat * 2 ^ k).sum := by
  rw [field, bitsVal_eq_sum, List.length_map, List.length_range]
  refine congrArg List.sum (List.map_congr_left fun k hk => ?_)
  simp [List.mem_range.mp hk]

/-- Settles O40: the pair passes its checksum and is emitted as `DEC_EPH` decodes it, whose times, norms and fields the
lemmas above give. -/
theorem decEphEmitsRecord : Obligations.DecEphEmitsRecord := by
  unfold Obligations.DecEphEmitsRecord
  refine ⟨?_, fun bs n hn => getElem?_eq_bitAt hn, fun bs o w _ => field_eq_sum bs o w⟩
  rintro s a b _ _ _ _ _ r hroom hgood rfl rfl rfl rfl rfl hr
  have hrec : decEph s.params.ephLayout a b = r := by
    simp only [hr, decEph, axesNorm_eq_sqrt, ephWeek_pair, ephSeconds_pair]
    rfl
  rw [← hrec]
  exact execDecEph_of_good hroom hgood

end Sys2Proof.Machine
end

section
/-! The fields of Synchronization and Message packets (43_decoders_link.md R190, R195), and the channel slices of Uplink
and Downlink packets: triplets of nibbles are twelve-bit slices of a little-endian value (43_decoders_link.md R201 to
R204, R207 to R210). -/

namespace Sys2Proof.Machine

/-- Settles O33, by what each of the two decoders makes of a packet. -/
theorem syncAndMessageFields : Obligations.SyncAndMessageFields := by
  unfold Obligations.SyncAndMessageFields
  exact fun p => ⟨decSync_eq p, decMsg_eq p⟩

/-- A slice above the lowest byte of a little-endian value is a slice of the rest (00_scope.md R9, R10). -/
theorem bitSlice_le_cons (b : Byte) (l : List Byte) (hi lo : Nat) :
    bitSlice (le (b :: l)) (hi + 8) (lo + 8) = bitSlice (le l) hi lo := by
  have hb := b.isLt
  have hrest : le (b :: l) >>> 8 = le l := by
    rw [le, Nat.shiftRight_eq_div_pow]
    omega
  rw [bitSlice, bitSlice, Nat.add_sub_add_right, Nat.add_comm lo, Nat.shiftRight_add, hrest]

/-- Twelve bits from the bottom: a low nibble and the byte below it. -/
theorem bitSlice_le_11_0 (a b : Byte) (l : List Byte) :
    bitSlice (le (a :: b :: l)) 11 0 = lo4 b * 256 + hi4 a * 16 + lo4 a := by
  have ha := a.isLt
  rw [bitSlice, hi4_eq, lo4_eq, lo4_eq, Nat.shiftRight_zero, le, le]
  omega

/-- Twelve bits from the middle of a byte: a byte and the high nibble below it. -/
theorem bitSlice_le_15_4 (a b : Byte) (l : List Byte) :
    bitSlice (le (a :: b :: l)) 15 4 = hi4 b * 256 + lo4 b * 16 + hi4 a := by
  have ha := a.isLt
  have hb := b.isLt
  rw [bitSlice, hi4_eq, lo4_eq, hi4_eq, Nat.shiftRight_eq_div_pow, le, le]
  omega

theorem uplCands_eq (p : Packet) {x : Nat} (hx : x = le [p.b3, p.b4, p.b5, p.b6, p.b7, p.b8]) :
    uplCands p = [bitSlice x 47 36, bitSlice x 35 24, bitSlice x 23 12, bitSlice x 11 0] := by
  simp only [hx, bitSlice_le_cons, bitSlice_le_11_0, bitSlice_le_15_4]
  rfl

theorem dnlCands_eq (p : Packet) {x : Nat} (hx : x = le [p.b2, p.b3, p.b4, p.b5, p.b6, p.b7, p.b8, p.b9]) :
    dnlCands p =
      [bitSlice x 59 48, bitSlice x 47 36, bitSlice x 35 24, bitSlice x 23 12, bitSlice x 11 0] := by
  simp only [hx, bitSlice_le_cons, bitSlice_le_11_0, bitSlice_le_15_4]
  rfl

/-- Settles O37: an enabled packet that passes its checksum is handled by emitting what `DEC_UPL` makes of it, whose
candidates are the four slices. -/
theorem decUplEmitsRecord : Obligations.DecUplEmitsRecord := by
  unfold Obligations.DecUplEmitsRecord
  rintro s p x r hroom hen hgood hx rfl
  rw [← uplCands_eq p hx, ← lo4_eq, ← hi4_eq]
  exact handleSingle_of_good (ty := .uplink) hroom hen hgood

/-- Settles O38: an enabled packet that passes its checksum is handled by emitting what `DEC_DNL` makes of it, whose
candidates are the five slices. -/
theorem decDnlEmitsRecord : Obligations.DecDnlEmitsRecord := by
  unfold Obligations.DecDnlEmitsRecord
  rintro s p x r hroom hen hgood hx rfl
  rw [← dnlCands_eq p hx]
  exact handleSingle_of_good (ty := .downlink) hroom hen hgood

end Sys2Proof.Machine
end

section
/-! The times of an ephemeris pair (44_decoders_orbit.md R241, R242), and the record of an Elements packet
(44_decoders_orbit.md R250 to R252). -/

namespace Sys2Proof.Machine

/-- Settles O34: the week and the seconds of the pair stand in its follower's bytes, under any layout. -/
theorem ephemerisIdAndTimeFields : Obligations.EphemerisIdAndTimeFields := by
  unfold Obligations.EphemerisIdAndTimeFields
  exact fun layout a b => ⟨_, rfl, rfl, ephWeek_pair a b, ephSeconds_pair a b⟩

/-- The mean anomaly stands in bytes 3 to 5 (44_decoders_orbit.md R250). -/
theorem eleMa_eq (p : Packet) : eleMa p = p.b3.toNat + 2 ^ 8 * p.b4.toNat + 2 ^ 16 * p.b5.toNat := by
  have hle : eleMa p = le [p.b3, p.b4, p.b5] := rfl
  rw [hle]
  simp only [le]
  omega

/-- The mean motion stands in bytes 6 to 9 (44_decoders_orbit.md R250). -/
theorem eleMm_eq (p : Packet) :
    eleMm p = p.b6.toNat + 2 ^ 8 * p.b7.toNat + 2 ^ 16 * p.b8.toNat + 2 ^ 24 * p.b9.toNat := by
  have hle : eleMm p = le [p.b6, p.b7, p.b8, p.b9] := rfl
  rw [hle]
  simp only [le]
  omega

/-- Settles O39: an enabled packet that passes its checksum is handled by emitting what `DEC_ELE` makes of it. -/
theorem decEleEmitsRecord : Obligations.DecEleEmitsRecord := by
  unfold Obligations.DecEleEmitsRecord
  rintro s p _ _ r hroom hen hgood rfl rfl rfl
  rw [← eleMa_eq, ← eleMm_eq]
  exact handleSingle_of_good (ty := .elements) hroom hen hgood

end Sys2Proof.Machine
end

section
/-! Every packet pushed is accounted for once, in order (60_exceptions.md R283): a step logs events, and each takes the
packets it accounts for from the front of those the dispatcher has yet to account for. -/

namespace Sys2Proof.Machine

/-- The packets pushed that no event accounts for yet: the trigger held, then those waiting. -/
def State.unaccounted (s : State) : List Packet := s.dsp.held ++ s.pq

namespace State.AccountsPackets

variable {s t : State}

theorem held_isTrigger (h : s.AccountsPackets) : ∀ a, s.dsp = .ephPending a → typeOfTag a.b0 = some .ephemeris := h.1

/-- A step that logs nothing may move packets from `PQ` into the dispatcher's hands. -/
theorem of_trace_eq (h : s.AccountsPackets) (hparams : t.params = s.params) (htrace : t.trace = s.trace)
    (hheld : ∀ a, t.dsp = .ephPending a → typeOfTag a.b0 = some .ephemeris)
    (hmoved : t.unaccounted = s.unaccounted) : t.AccountsPackets := by
  obtain ⟨-, parts, hparts, hpackets⟩ := h
  refine ⟨hheld, parts, by rwa [hparams, htrace], ?_⟩
  rw [List.append_assoc] at hpackets ⊢
  exact htrace ▸ hpackets.trans (congrArg (parts.flatten ++ ·) hmoved.symm)

/-- A step that logs one event: what the event accounts for comes off the front of the unaccounted packets, and a packet
it pushes goes behind them. -/
theorem of_logged {e : Event} {part : List Packet} (h : s.AccountsPackets) (hparams : t.params = s.params)
    (htrace : t.trace = s.trace ++ [e]) (hpart : e.accountsFor s.params.ephLayout part)
    (hheld : ∀ a, t.dsp = .ephPending a → typeOfTag a.b0 = some .ephemeris)
    (hmoved : s.unaccounted ++ packetsOf [e] = part ++ t.unaccounted) : t.AccountsPackets := by
  obtain ⟨-, parts, hparts, hpackets⟩ := h
  refine ⟨hheld, parts ++ [part], ?_, ?_⟩
  · rw [hparams, htrace]
    exact List.rel_append hparts (.cons hpart .nil)
  · calc packetsOf t.trace
        = parts.flatten ++ (s.unaccounted ++ packetsOf [e]) := by
          simp [htrace, hpackets, State.unaccounted]
      _ = (parts ++ [part]).flatten ++ t.dsp.held ++ t.pq := by
          rw [hmoved]; simp [State.unaccounted]

/-- The account does not speak of the schedule. -/
theorem of_sameBlock (h : s.AccountsPackets) (hst : s.SameBlock t) : t.AccountsPackets := by
  rw [hst]; exact h

theorem noteIncomplete (h : s.AccountsPackets) (f : Frame) : (noteIncomplete f s).AccountsPackets := by
  rcases noteIncomplete_cases f s with ⟨bits, bytes, hn⟩ | hn <;> rw [hn]
  · exact h.of_logged (part := []) rfl rfl rfl h.held_isTrigger (List.append_nil _)
  · exact h

theorem acceptBit (h : s.AccountsPackets) (b : Bool) : (acceptBit b s).AccountsPackets :=
  h.of_logged (part := []) rfl rfl rfl h.held_isTrigger (List.append_nil _)

end State.AccountsPackets

/-- Whatever an agent or host step leads to, it keeps every packet accounted for. -/
theorem Effect.keeps_accountsPackets {s t : State} {a : Action} (h : Effect s a t) (hs : s.AccountsPackets) :
    t.AccountsPackets := by
  have hheld := hs.held_isTrigger
  cases h with
  | waited => exact hs
  | accepted b => exact hs.acceptBit b
  | framed b => exact (hs.acceptBit b).of_logged (part := []) rfl rfl rfl hheld (List.append_nil _)
  | loaded f rest => exact State.AccountsPackets.noteIncomplete (s := s.setFq rest) hs f
  | packeted p rest =>
    exact hs.of_logged (part := []) rfl rfl rfl hheld (by simp [State.unaccounted])
  | popDropped p rest d hd hq _ hc =>
    have hdrop : d.packets = [p] := by rcases hc with rfl | rfl <;> rfl
    exact hs.of_logged (e := .drop d) rfl rfl rfl hheld (by simp [State.unaccounted, hd, hq, hdrop, Dsp.held])
  | popDecoded p rest ty r hd hq _ ht hc hrec =>
    have hdecodes : decodesTo s.params.ephLayout [p] r := .inl ⟨ty, p, rfl, ht, hc, hrec⟩
    exact hs.of_logged (e := .record r) rfl rfl hdecodes hheld (by simp [State.unaccounted, hd, hq, Dsp.held])
  | popHeld p rest hd hq _ ht =>
    exact hs.of_trace_eq rfl rfl (fun _ he => by cases he; exact ht)
      (by simp [State.unaccounted, hd, hq, Dsp.held])
  | ephAbandoned p hd hq =>
    exact hs.of_logged (e := .drop (.reassemblyUnavailable p)) rfl rfl rfl nofun
      (by simp [State.unaccounted, hd, hq, Dsp.held, Drop.packets])
  | ephDecoded p q rest hd hq _ hc =>
    have hdecodes : decodesTo s.params.ephLayout [p, q] (decEph s.params.ephLayout p q) :=
      .inr ⟨p, q, rfl, hheld p hd, hc, rfl⟩
    exact hs.of_logged (e := .record _) rfl rfl hdecodes nofun (by simp [State.unaccounted, hd, hq, Dsp.held])
  | ephDropped p q rest hd hq =>
    exact hs.of_logged (e := .drop (.checksumFailure p (some q))) rfl rfl rfl nofun
      (by simp [State.unaccounted, hd, hq, Dsp.held, Drop.packets])
  | configured | configRead => exact hs
  | wasReset => exact ⟨nofun, [], .nil, rfl⟩
  | took r rest => exact hs.of_logged (part := []) rfl rfl rfl hheld (List.append_nil _)

/-- Settles O56: a step is the effect of a scheduled action, and each effect keeps the account of packets. -/
theorem stepAccountsForPackets : Obligations.StepAccountsForPackets := by
  unfold Obligations.StepAccountsForPackets
  intro s t hs h
  obtain ⟨a, u, hblock, heffect⟩ := step_effect h
  exact heffect.keeps_accountsPackets (hs.of_sameBlock hblock)

end Sys2Proof.Machine
end

section
/-! No operation faults, and none stops but a configuration access off address 0 (60_exceptions.md R270, R272, R276):
every other operation answers a next state on each of its paths. -/

namespace Sys2Proof.Machine

/-- The operation goes on: it neither faults nor is refused. -/
def goesOn (r : Result) : Prop := ∃ t, r = .next t

theorem goesOn_next (t : State) : goesOn (.next t) := ⟨t, rfl⟩

theorem goesOn_of_eq {r q : Result} (h : r = q) (hq : goesOn q) : goesOn r := h ▸ hq

theorem goesOn_ite {c : Prop} [Decidable c] {r q : Result} (hr : goesOn r) (hq : goesOn q) :
    goesOn (if c then r else q) := by
  split
  · exact hr
  · exact hq

theorem goesOn_handleSingle (ty : PacketType) (dec : Packet → Record) (p : Packet) (s : State) :
    goesOn (handleSingle ty dec p s) :=
  goesOn_ite (goesOn_next _) (goesOn_ite (goesOn_ite (goesOn_next _) (goesOn_next _)) (goesOn_next _))

theorem goesOn_discardPacket (p : Packet) (s : State) : goesOn (discardPacket p s) :=
  goesOn_ite (goesOn_next _) (goesOn_next _)

theorem goesOn_holdTrigger (a : Packet) (s : State) : goesOn (holdTrigger a s) :=
  goesOn_ite (goesOn_ite (goesOn_next _) (goesOn_next _)) (goesOn_next _)

theorem goesOn_dispatchPacket (a : Packet) (s : State) : goesOn (dispatchPacket a s) := by
  rcases dispatchPacket_cases a s with ⟨hexec, -⟩ | ⟨ty, dec, -, -, hexec, -⟩ | ⟨hexec, -⟩ <;> rw [hexec]
  · exact goesOn_discardPacket a s
  · exact goesOn_handleSingle ty dec a s
  · exact goesOn_holdTrigger a s

theorem goesOn_execDecEph (a b : Packet) (s : State) : goesOn (execDecEph a b s) :=
  goesOn_ite (goesOn_next _) (goesOn_ite (goesOn_next _) (goesOn_next _))

theorem goesOn_execSyncMatch (s : State) : goesOn (execSyncMatch s) :=
  goesOn_ite (goesOn_next _) (goesOn_ite (goesOn_next _) (goesOn_next _))

/-- A step of the block's agents or the sink goes on: where it is not enabled it waits, where it is it runs its one
enabled path. -/
theorem goesOn_drainOrder {a : Action} (ha : a ∈ drainOrder) (s : State) : goesOn (exec a.toInstr s) := by
  by_cases hen : enabled s a = true
  · simp only [drainOrder, List.mem_cons, List.not_mem_nil, or_false] at ha
    rcases ha with rfl | rfl | rfl | rfl | rfl | rfl
    · obtain ⟨r, rest, hq⟩ := enabled_snkTake.mp hen
      exact ⟨_, execSnkTake_of_record hq⟩
    · obtain ⟨⟨p, rest, hrem⟩, hroom⟩ := enabled_pkzEmit.mp hen
      exact ⟨_, execPkzEmit_of_room hrem hroom⟩
    · obtain ⟨hrem, f, rest, hq⟩ := enabled_pkzLoad.mp hen
      exact ⟨_, execPkzLoad_of_frame hrem hq⟩
    · obtain ⟨⟨p, hd⟩, hroom⟩ := enabled_dspEph.mp hen
      cases hq : s.pq with
      | nil => exact ⟨_, execDspEph_of_empty hd hq hroom⟩
      | cons b rest => exact goesOn_of_eq (execDspEph_of_follower hd hq hroom) (goesOn_execDecEph p b _)
    · obtain ⟨hd, ⟨p, rest, hq⟩, hroom⟩ := enabled_dspPop.mp hen
      exact goesOn_of_eq (execDspPop_of_room hd hq hroom) (goesOn_dispatchPacket p _)
    · obtain ⟨⟨b, hbit⟩, hroom⟩ := enabled_synBit.mp hen
      exact goesOn_of_eq (execSynBit_of_bit hbit hroom) (goesOn_execSyncMatch _)
  · exact ⟨s, disabledStepWaits s a (Bool.eq_false_iff.mpr hen)⟩

/-- Settles O48: only the two configuration operations have a path that is refused, and it is the one off address 0. -/
theorem onlyConfigAddressStops : Obligations.OnlyConfigAddressStops := by
  unfold Obligations.OnlyConfigAddressStops
  intro i s
  cases i with
  | decSync p | decMsg p | decUpl p | decDnl p | decEle p => exact .inl (goesOn_handleSingle _ _ p s)
  | discNc p | discFill p | discUnk p => exact .inl (goesOn_discardPacket p s)
  | decEph a b => exact .inl (goesOn_execDecEph a b s)
  | syncMatch => exact .inl (goesOn_execSyncMatch s)
  | synBit => exact .inl (goesOn_drainOrder (a := .synBit) (by decide) s)
  | pkzLoad => exact .inl (goesOn_drainOrder (a := .pkzLoad) (by decide) s)
  | pkzEmit => exact .inl (goesOn_drainOrder (a := .pkzEmit) (by decide) s)
  | dspPop => exact .inl (goesOn_drainOrder (a := .dspPop) (by decide) s)
  | dspEph => exact .inl (goesOn_drainOrder (a := .dspEph) (by decide) s)
  | snkTake => exact .inl (goesOn_drainOrder (a := .snkTake) (by decide) s)
  | reset => exact .inl (goesOn_next _)
  | cfgWrite addr v =>
    by_cases haddr : addr = 0
    · exact .inl ⟨_, if_pos haddr⟩
    · exact .inr ⟨addr, haddr, .inr ⟨v, rfl⟩, if_neg haddr⟩
  | cfgRead addr =>
    by_cases haddr : addr = 0
    · exact .inl ⟨_, if_pos haddr⟩
    · exact .inr ⟨addr, haddr, .inl rfl, if_neg haddr⟩

end Sys2Proof.Machine
end

section
/-! The end of a run (60_exceptions.md R280, R281): in a state that meets the invariant, with legal depths, nothing of the
block or the sink is enabled just when nothing is left to do. -/

namespace Sys2Proof.Machine

variable {s : State}

theorem quiescent_iff : quiescent s = true ↔
    s.inSource = none ∧ s.inPos = s.inBits.length ∧ s.fq = [] ∧ s.pzRem = none ∧ s.pq = [] ∧ s.dsp = .idle ∧
      s.rq = [] := by
  simp only [quiescent, Bool.and_eq_true, Option.isNone_iff_eq_none, decide_eq_true_eq, List.isEmpty_iff]
  tauto

/-- A channel of a legal depth that holds nothing is not full (00_scope.md R7, R11). -/
theorem fullAt_zero {depth : Option Nat} (h : depth ≠ some 0) : fullAt depth 0 = false :=
  fullAt_eq_false.mpr fun _ hd => Nat.pos_of_ne_zero fun hzero => h (hzero ▸ hd)

/-- With no bit offered, a position that meets the invariant is the end of a finite `IN`. -/
theorem State.Inv.input_at_end (h : s.Inv) (hbit : s.inBit = none) :
    s.inSource = none ∧ s.inPos = s.inBits.length := by
  have hvalid := State.inBit_eq_none.mp hbit
  simp only [State.inValid, Bool.or_eq_false_iff, Option.isSome_eq_false_iff, Option.isNone_iff_eq_none,
    decide_eq_false_iff_not, Nat.not_lt] at hvalid
  obtain ⟨hsource, hend⟩ := hvalid
  exact ⟨hsource, Nat.le_antisymm (h.input hsource) hend⟩

theorem not_enabled_of_quiescent (h : quiescent s = true) : ∀ a ∈ drainOrder, ¬enabled s a = true := by
  obtain ⟨hsource, hend, hfq, hrem, hpq, hdsp, hrq⟩ := quiescent_iff.mp h
  simp [drainOrder, enabled, State.inValid, hsource, hend, hfq, hrem, hpq, hdsp, hrq]

/-- From the sink back to the input: a stage with nothing to do has emptied what it takes from, so the channel it takes
from is not full, and the stage before it waits for nothing but its own input. -/
theorem quiescent_of_not_enabled (hs : s.Inv) (hdepths : s.depthsLegal)
    (h : ∀ a ∈ drainOrder, ¬enabled s a = true) : quiescent s = true := by
  obtain ⟨hframeDepth, hpacketDepth, hrecordDepth⟩ := hdepths
  have hrq : s.rq = [] := by
    by_contra hne
    exact h .snkTake (by decide) (enabled_snkTake.mpr (List.ne_nil_iff_exists_cons.mp hne))
  have hrqRoom : s.rqFull = false := by
    rw [State.rqFull, hrq]; exact fullAt_zero hrecordDepth
  have hdsp : s.dsp = .idle := by
    cases hd : s.dsp with
    | idle => rfl
    | ephPending a => exact absurd (enabled_dspEph.mpr ⟨⟨a, hd⟩, hrqRoom⟩) (h .dspEph (by decide))
  have hpq : s.pq = [] := by
    by_contra hne
    exact h .dspPop (by decide) (enabled_dspPop.mpr ⟨hdsp, List.ne_nil_iff_exists_cons.mp hne, hrqRoom⟩)
  have hpqRoom : s.pqFull = false := by
    rw [State.pqFull, hpq]; exact fullAt_zero hpacketDepth
  have hrem : s.pzRem = none := by
    cases hr : s.pzRem with
    | none => rfl
    | some ps =>
      cases ps with
      | nil => exact absurd hr hs.rest
      | cons p rest => exact absurd (enabled_pkzEmit.mpr ⟨⟨p, rest, hr⟩, hpqRoom⟩) (h .pkzEmit (by decide))
  have hfq : s.fq = [] := by
    by_contra hne
    exact h .pkzLoad (by decide) (enabled_pkzLoad.mpr ⟨hrem, List.ne_nil_iff_exists_cons.mp hne⟩)
  have hfqRoom : s.fqFull = false := by
    rw [State.fqFull, hfq]; exact fullAt_zero hframeDepth
  have hbit : s.inBit = none := by
    by_contra hne
    exact h .synBit (by decide) (enabled_synBit.mpr ⟨Option.ne_none_iff_exists'.mp hne, hfqRoom⟩)
  obtain ⟨hsource, hend⟩ := hs.input_at_end hbit
  exact quiescent_iff.mpr ⟨hsource, hend, hfq, hrem, hpq, hdsp, hrq⟩

theorem not_quiescent_iff (hs : s.Inv) (hdepths : s.depthsLegal) :
    quiescent s = false ↔ ∃ a ∈ drainOrder, enabled s a = true := by
  constructor
  · intro hbusy
    by_contra hnone
    push Not at hnone
    exact Bool.eq_false_iff.mp hbusy (quiescent_of_not_enabled hs hdepths hnone)
  · rintro ⟨a, ha, hen⟩
    exact Bool.eq_false_iff.mpr fun hq => not_enabled_of_quiescent hq a ha hen

/-- Settles O58: what is left to do enables the stage nearest the sink that has something to take. -/
theorem enabledUntilQuiescent : Obligations.EnabledUntilQuiescent := by
  unfold Obligations.EnabledUntilQuiescent
  exact fun s hs hdepths => not_quiescent_iff hs hdepths

end Sys2Proof.Machine
end

section
/-! The work left (60_exceptions.md R281): one equation per operation over the state, and from these that each step of the
block's agents and the sink, which moves something one stage nearer the sink, leaves less of it. -/

namespace Sys2Proof.Machine

variable {s t : State}

@[simp] theorem work_log (e : Event) (s : State) : (s.log e).work = s.work := rfl

@[simp] theorem work_raise (d : Drop) (s : State) : (s.raise d).work = s.work := rfl

@[simp] theorem work_emit (r : Record) (s : State) : (s.emit r).work = s.work + 1 := by
  simp [State.work, ← Nat.add_assoc]

@[simp] theorem work_noteIncomplete (f : Frame) (s : State) : (noteIncomplete f s).work = s.work := by
  rw [noteIncomplete_eq]; rfl

theorem work_acceptBit (b : Bool) (h : s.inPos < s.inBits.length) : (acceptBit b s).work + 202 = s.work := by
  simp [State.work, acceptBit]; omega

theorem work_pushFrame (f : Frame) (s : State) : (s.pushFrame f).work = s.work + frameWork f := by
  simp [State.work]; omega

theorem work_pushPacket (p : Packet) (s : State) : (s.pushPacket p).work = s.work + 3 := by
  simp [State.work]; omega

theorem work_popFq {f : Frame} {rest : List Frame} (hq : s.fq = f :: rest) :
    (s.setFq rest).work + frameWork f = s.work := by
  simp [State.work, hq]; omega

theorem work_popPq {p : Packet} {rest : List Packet} (hq : s.pq = p :: rest) : (s.setPq rest).work + 3 = s.work := by
  simp [State.work, hq]; omega

theorem work_popRq {r : Record} {rest : List Record} (hq : s.rq = r :: rest) : (s.setRq rest).work + 1 = s.work := by
  simp [State.work, hq, ← Nat.add_assoc]

/-- A remainder taken in hand. -/
theorem work_takeUp (hrem : s.pzRem = none) (ps : List Packet) :
    (s.setPzRem (remOf ps)).work = s.work + 4 * ps.length := by
  simp [State.work, hrem]; omega

/-- The first packet of the remainder let go. -/
theorem work_letGo {p : Packet} {rest : List Packet} (hrem : s.pzRem = some (p :: rest)) :
    (s.setPzRem (remOf rest)).work + 4 = s.work := by
  simp [State.work, hrem]; omega

theorem work_hold (hd : s.dsp = .idle) (a : Packet) : (s.setDsp (.ephPending a)).work = s.work + 2 := by
  simp [State.work, hd, dspWork]; omega

theorem work_giveUp {a : Packet} (hd : s.dsp = .ephPending a) : (s.setDsp .idle).work + 2 = s.work := by
  simp [State.work, hd, dspWork]; omega

/-- A frame of at most 4800 bits costs less than the 202 of its last bit. -/
theorem frameWork_lt {f : Frame} (h : f.length ≤ windowCap) : frameWork f < 202 := by
  rw [frameWork, npackets_eq]
  unfold windowCap at h
  omega

theorem frameWork_eq (f : Frame) : frameWork f = 1 + 4 * (packets f).length := by
  simp [frameWork, packets]

/-- The actions of the block's agents and the sink are those that neither configure nor reset (10_state.md R20). -/
theorem mem_drainOrder_iff {a : Action} : a ∈ drainOrder ↔ a.agent ≠ .cfgh ∧ a.agent ≠ .rsth := by
  cases a <;> simp [drainOrder, Action.agent]

/-- An enabled step of the block or the sink leaves less work; the input of an unbounded `IN` apart. -/
theorem Effect.work_lt {a : Action} (h : Effect s a t) (hs : s.Inv) (ha : a ∈ drainOrder)
    (hfinite : a = .synBit → s.inSource = none) (hen : enabled s a = true) : t.work < s.work := by
  cases h with
  | waited _ hn => exact absurd hen (Bool.eq_false_iff.mp hn)
  | accepted b hb =>
    have hbit := work_acceptBit b (State.inPos_lt_of_inBit hb (hfinite rfl))
    omega
  | framed b hb =>
    have hbit := work_acceptBit b (State.inPos_lt_of_inBit hb (hfinite rfl))
    have hframe := frameWork_lt (slideWindow_length_le hs.window b)
    rw [work_pushFrame]
    omega
  | loaded f rest hrem hq =>
    have hpop := work_popFq hq
    have hrem' : (noteIncomplete f (s.setFq rest)).pzRem = none := by rw [noteIncomplete_eq]; exact hrem
    rw [work_takeUp hrem', work_noteIncomplete]
    rw [frameWork_eq] at hpop
    omega
  | packeted p rest hrem =>
    have hpush := work_pushPacket p s
    have hrest := work_letGo (s := s.pushPacket p) hrem
    omega
  | popDropped p rest d _ hq =>
    have hpop := work_popPq hq
    rw [work_raise]
    omega
  | popDecoded p rest ty r _ hq =>
    have hpop := work_popPq hq
    rw [work_emit]
    omega
  | popHeld p rest hd hq =>
    have hpop := work_popPq hq
    rw [work_hold (s := s.setPq rest) hd]
    omega
  | ephAbandoned p hd =>
    have hidle := work_giveUp hd
    rw [work_raise]
    omega
  | ephDecoded p q rest hd hq =>
    have hidle := work_giveUp hd
    have hpop := work_popPq (s := s.setDsp .idle) hq
    rw [work_emit]
    omega
  | ephDropped p q rest hd hq =>
    have hidle := work_giveUp hd
    have hpop := work_popPq (s := s.setDsp .idle) hq
    rw [work_raise]
    omega
  | took r rest hq =>
    have hpop := work_popRq hq
    rw [work_log]
    omega
  | configured | configRead | wasReset => simp [mem_drainOrder_iff, Action.agent] at ha

/-- Settles O59: each effect of an enabled step leaves less work. -/
theorem enabledStepLowersWork : Obligations.EnabledStepLowersWork := by
  unfold Obligations.EnabledStepLowersWork
  intro s t a hs ha hfinite hen h
  exact (exec_effect h).work_lt hs ha hfinite hen

end Sys2Proof.Machine
end

section
/-! A run on a finite input comes to rest (60_exceptions.md R280, R281, 30_encoding.md R98): what is left to do enables a
step, every such step leaves less work, and work cannot fall for ever. -/

namespace Sys2Proof.Machine

variable {s t : State}

/-- What a run that comes to rest needs of a state: the invariant, legal depths and a finite input. -/
structure State.ComesToRest (s : State) : Prop where
  inv : s.Inv
  depths : s.depthsLegal
  finite : s.inSource = none

namespace State.ComesToRest

theorem exec {a : Action} (h : s.ComesToRest) (hexec : exec a.toInstr s = .next t) : t.ComesToRest := by
  obtain ⟨hparams, -, hsource, -⟩ := parametersAndTraceKept _ _ _ hexec
  refine ⟨(exec_effect hexec).keeps_inv h.inv, ?_, hsource.trans h.finite⟩
  rw [State.depthsLegal, hparams]
  exact h.depths

theorem work_lt {a : Action} (h : s.ComesToRest) (ha : a ∈ drainOrder) (hen : enabled s a = true)
    (hexec : Machine.exec a.toInstr s = .next t) : t.work < s.work :=
  (exec_effect hexec).work_lt h.inv ha (fun _ => h.finite) hen

/-- With no work left no step is enabled, as it would leave less. -/
theorem quiescent_of_work_eq_zero (h : s.ComesToRest) (hwork : s.work = 0) : quiescent s = true := by
  refine quiescent_of_not_enabled h.inv h.depths fun a ha hen => ?_
  obtain ⟨t, ht⟩ := goesOn_drainOrder ha s
  exact absurd (h.work_lt ha hen ht) (by omega)

end State.ComesToRest

theorem work_of_quiescent (h : quiescent s = true) : s.work = 0 := by
  obtain ⟨-, hend, hfq, hrem, hpq, hdsp, hrq⟩ := quiescent_iff.mp h
  simp [State.work, hend, hfq, hrem, hpq, hdsp, hrq, dspWork]

/-! `DRAIN` -/

/-- A drain step takes an enabled step of the block or the sink, or finds none. -/
theorem drainStep_cases (s : State) :
    (∃ a ∈ drainOrder, enabled s a = true ∧ exec a.toInstr s = .next (drainStep s)) ∨
    ((∀ a ∈ drainOrder, ¬enabled s a = true) ∧ drainStep s = s) := by
  cases hfind : drainOrder.find? (enabled s) with
  | none => exact .inr ⟨List.find?_eq_none.mp hfind, by simp only [drainStep, hfind]⟩
  | some a =>
    have ha : a ∈ drainOrder := List.mem_of_find?_eq_some hfind
    obtain ⟨t, ht⟩ := goesOn_drainOrder ha s
    have hstep : drainStep s = t := by simp only [drainStep, hfind, ht]
    exact .inl ⟨a, ha, List.find?_some hfind, hstep ▸ ht⟩

theorem drainStep_lowers (h : s.ComesToRest) : (drainStep s).ComesToRest ∧ (drainStep s).work ≤ s.work - 1 := by
  rcases drainStep_cases s with ⟨a, ha, hen, hexec⟩ | ⟨hnone, hstay⟩
  · exact ⟨h.exec hexec, Nat.le_sub_one_of_lt (h.work_lt ha hen hexec)⟩
  · rw [hstay, work_of_quiescent (quiescent_of_not_enabled h.inv h.depths hnone)]
    exact ⟨h, le_rfl⟩

theorem drainFor_lowers (n : Nat) (h : s.ComesToRest) :
    (drainFor n s).ComesToRest ∧ (drainFor n s).work ≤ s.work - n := by
  induction n generalizing s with
  | zero => exact ⟨h, le_rfl⟩
  | succ n ih =>
    obtain ⟨hstep, hle⟩ := drainStep_lowers h
    obtain ⟨hrest, hwork⟩ := ih hstep
    exact ⟨hrest, hwork.trans (by omega)⟩

/-- As many steps as there is work leave none. -/
theorem drain_quiescent (h : s.ComesToRest) : quiescent s.drain = true := by
  obtain ⟨hrest, hwork⟩ := drainFor_lowers s.work h
  exact hrest.quiescent_of_work_eq_zero (by omega)

/-! Weakly fair runs -/

/-- A step without `RESET` is an enabled one of the block or the sink, or it changes nothing but what the configuration
port does, on which neither the work left nor what is enabled rests. -/
theorem exec_drains_or_idles {a : Action} (hexec : exec a.toInstr s = .next t) (ha : a ≠ .reset) :
    (a ∈ drainOrder ∧ enabled s a = true) ∨ (t.work = s.work ∧ enabled t = enabled s) := by
  by_cases hen : enabled s a = true
  · cases a with
    | synBit | pkzLoad | pkzEmit | dspPop | dspEph | snkTake => exact .inl ⟨by decide, hen⟩
    | reset => exact absurd rfl ha
    | cfgWrite addr v =>
      cases exec_effect hexec with
      | waited | configured => exact .inr ⟨rfl, rfl⟩
    | cfgRead addr =>
      cases exec_effect hexec with
      | waited | configRead => exact .inr ⟨rfl, rfl⟩
  · rw [disabledStepWaits s a (Bool.eq_false_iff.mpr hen)] at hexec
    cases hexec
    exact .inr ⟨rfl, rfl⟩

section Run

variable {states : Nat → State} {acts : Nat → Action}

theorem IsRun.comesToRest (hrun : IsRun states acts) (h0 : (states 0).ComesToRest) (n : Nat) :
    (states n).ComesToRest := by
  induction n with
  | zero => exact h0
  | succ n ih => exact ih.exec (hrun n)

theorem IsRun.work_antitone (hrun : IsRun states acts) (h0 : (states 0).ComesToRest) (hreset : ∀ n, acts n ≠ .reset) :
    Antitone fun n => (states n).work := by
  refine antitone_nat_of_succ_le fun n => ?_
  rcases exec_drains_or_idles (hrun n) (hreset n) with ⟨ha, hen⟩ | ⟨hwork, -⟩
  · exact ((hrun.comesToRest h0 n).work_lt ha hen (hrun n)).le
  · exact hwork.le

/-- From where the work left is least, no enabled step of the block or the sink is taken: it would leave less. -/
theorem IsRun.eventually_idles (hrun : IsRun states acts) (h0 : (states 0).ComesToRest)
    (hreset : ∀ n, acts n ≠ .reset) :
    ∃ n, ∀ m, n ≤ m → ¬(acts m ∈ drainOrder ∧ enabled (states m) (acts m) = true) := by
  refine ⟨Function.argmin (State.work ∘ states), fun m hm ⟨ha, hen⟩ => ?_⟩
  have hlower : (states (m + 1)).work < (states m).work := (hrun.comesToRest h0 m).work_lt ha hen (hrun m)
  have hbelow : (states m).work ≤ (states (Function.argmin (State.work ∘ states))).work :=
    hrun.work_antitone h0 hreset hm
  have hleast : (states (Function.argmin (State.work ∘ states))).work ≤ (states (m + 1)).work :=
    Function.argmin_le (State.work ∘ states) (m + 1)
  omega

/-- While no such step is taken, what is enabled stays as it is. -/
theorem IsRun.enabled_eq_of_idles (hrun : IsRun states acts) (hreset : ∀ n, acts n ≠ .reset) {n : Nat}
    (hidle : ∀ m, n ≤ m → ¬(acts m ∈ drainOrder ∧ enabled (states m) (acts m) = true)) {m : Nat} (hm : n ≤ m) :
    enabled (states m) = enabled (states n) := by
  induction m, hm using Nat.le_induction with
  | base => rfl
  | succ m hm ih =>
    obtain ⟨-, hsame⟩ := (exec_drains_or_idles (hrun m) (hreset m)).resolve_left (hidle m hm)
    exact hsame.trans ih

/-- Once no step of the block or the sink is taken, an agent with something to do would stay enabled, and fairness would
have it take a step; so there is none. -/
theorem IsRun.reaches_quiescence (hrun : IsRun states acts) (hfair : WeaklyFair states acts)
    (h0 : (states 0).ComesToRest) (hreset : ∀ n, acts n ≠ .reset) : ∃ n, quiescent (states n) = true := by
  obtain ⟨n, hidle⟩ := hrun.eventually_idles h0 hreset
  have hn := hrun.comesToRest h0 n
  refine ⟨n, quiescent_of_not_enabled hn.inv hn.depths fun a ha hen => ?_⟩
  have hstays : ∀ m, n ≤ m → agentEnabled (states m) a.agent := fun m hm =>
    ⟨a, ha, rfl, by rw [hrun.enabled_eq_of_idles hreset hidle hm]; exact hen⟩
  obtain ⟨m, hm, hagent, htaken⟩ := hfair a.agent n hstays
  have hdrain : acts m ∈ drainOrder := by
    rw [mem_drainOrder_iff, hagent]
    exact mem_drainOrder_iff.mp ha
  exact hidle m hm ⟨hdrain, htaken⟩

end Run

/-- Settles O60: `DRAIN` takes as many steps as there is work, and a fair run ends where the work no longer falls. -/
theorem drainAndFairRunsReachQuiescence : Obligations.DrainAndFairRunsReachQuiescence := by
  unfold Obligations.DrainAndFairRunsReachQuiescence
  refine ⟨fun s hinv hdepths hfinite => drain_quiescent ⟨hinv, hdepths, hfinite⟩, ?_⟩
  intro states acts hrun hfair hinv hdepths hfinite hreset
  exact IsRun.reaches_quiescence hrun hfair ⟨hinv, hdepths, hfinite⟩ hreset

end Sys2Proof.Machine
end

section
/-! The host's `RESET` (70_reset_and_hazards.md R300): it writes what the state right after reset holds
(10_state.md R35), and the enable word of the parameters. -/

namespace Sys2Proof.Machine

/-- `RESET` has no other path, so it is never refused, never faults and never waits. -/
theorem exec_reset (s : State) : exec .reset s = .next { s with
    w := State.reset.w, fq := State.reset.fq, pzRem := State.reset.pzRem, pq := State.reset.pq,
    dsp := State.reset.dsp, rq := State.reset.rq, cfgEnable := s.params.enableReset,
    trace := State.reset.trace } := rfl

/-- Settles O10: the block's elements are those of `State.reset`, whose values are known. -/
theorem resetClearsTheBlock : Obligations.ResetClearsTheBlock := by
  unfold Obligations.ResetClearsTheBlock
  intro s
  obtain ⟨hw, hfq, hpzRem, hpq, hdsp, hrq, -, htrace, -⟩ := resetStateValues
  rw [exec_reset, hw, hfq, hpzRem, hpq, hdsp, hrq, htrace]

end Sys2Proof.Machine
end
